-- ==== Sys2Proof/Word.lean ====
section
/-! DEFINITION. The byte, the 32-bit host word and the pixel (spec 00_scope.md R5 and R7, 10_state.md R12). -/

namespace Sys2Proof

/-- A byte, 0 to 255, bit 7 the most significant (R7). -/
abbrev Byte := BitVec 8

/-- A host-side register, 32 bits (R24). -/
abbrev Word := BitVec 32

/-- A pixel: four independent byte fields; two pixels are the same iff all four channels are equal (R7, R12). -/
structure Pixel where
  r : Byte
  g : Byte
  b : Byte
  a : Byte
  deriving DecidableEq, Repr

/-- The pixel every cache slot holds at the start of an operation (R14, R28). -/
def Pixel.zero : Pixel := ⟨0, 0, 0, 0⟩

/-- The previous pixel at the start of an operation (R13, R28). -/
def Pixel.start : Pixel := ⟨0, 0, 0, 255⟩

end Sys2Proof
end

