-- ==== Sys2Proof/Config.lean ====
section
/-! DEFINITION. What an implementation fixes: the named constants of the wire format, the parameters the spec leaves
open, and the free values (spec 00_scope.md R5 and R6, 30_encoding.md R46 to R49, R53, R54). -/

namespace Sys2Proof

/-- DIFF_TIE: what `sdiff8` gives for two bytes exactly 128 apart (R6, R70). -/
inductive DiffTie where
  | plus
  | minus
  deriving DecidableEq, Repr

/-- The number a tie stands for. -/
def DiffTie.value : DiffTie → Int
  | .plus => 128
  | .minus => -128

/-- BAD_FMT_POLICY: what the decoder does with a header whose CHANNELS or COLORSPACE is out of range (R6, R150). -/
inductive BadFmtPolicy where
  | refuse
  | headerError
  | pass
  deriving DecidableEq, Repr

/-- The parameters the spec leaves open (R6). `none` is "unbounded". No step writes them. DESIGN CHOICE (log 2): the
record stands in State, so that a statement about every state is made for every value of every parameter. -/
structure Config where
  diffTie      : DiffTie
  badFmtPolicy : BadFmtPolicy
  maxPixels    : Option Nat
  maxStream    : Option Nat
  runWidth     : Option Nat
  deriving DecidableEq, Repr

/-- The defaults R6 takes. -/
def Config.default : Config :=
  { diffTie := .plus, badFmtPolicy := .refuse, maxPixels := none, maxStream := none, runWidth := none }

/-- A bound that is set and exceeded. -/
def Config.exceeds : Option Nat → Nat → Bool
  | none, _ => false
  | some m, n => decide (m < n)

/-- MAX_STREAM, if set, leaves room for every admitted encode (R98, D24). -/
def Config.wf (c : Config) : Bool :=
  match c.maxStream, c.maxPixels with
  | none, _ => true
  | some _, none => false
  | some m, some p => decide (22 + 5 * p ≤ m)

/-- MAGIC, ASCII `qoif` (R46). PRESUMED, log 3: the spec's D2 takes it from general knowledge. -/
def Config.magic : List Byte := [0x71, 0x6F, 0x69, 0x66]

/-- The end marker (R47). -/
def Config.endMarker : List Byte := [0, 0, 0, 0, 0, 0, 0, 1]

/-- HDR_LEN and END_LEN (R5). -/
def Config.headerLength : Nat := 14
def Config.endLength : Nat := 8

/-- RUN_MAX (R5). -/
def Config.runMax : Nat := 62

/-- The tag constants (R49). PRESUMED, log 3. -/
def Config.tagRgb : Byte := 0xFE
def Config.tagRgba : Byte := 0xFF
def Config.tagIndex : BitVec 2 := 0b00
def Config.tagDiff : BitVec 2 := 0b01
def Config.tagLuma : BitVec 2 := 0b10
def Config.tagRun : BitVec 2 := 0b11

/-- Lowest bit of each field of the DIFF byte (R53). PRESUMED, log 3. -/
def Config.diffLowR : Nat := 4
def Config.diffLowG : Nat := 2
def Config.diffLowB : Nat := 0

/-- Lowest bit of the two nibbles of the second LUMA byte (R54). PRESUMED, log 3. -/
def Config.lumaLowR : Nat := 4
def Config.lumaLowB : Nat := 0

/-- The biases (R57). -/
def Config.biasDiff : Int := 2
def Config.biasLumaG : Int := 32
def Config.biasLuma : Int := 8

/-- The free values: draw number `n` is a number nothing constrains (U13, U14; log 5). No body. -/
opaque Config.freeValue : Nat → Nat

end Sys2Proof
end

