-- ==== Sys2Proof/Syntax.lean ====
section
/-! DEFINITION. The units of a stream: the six chunk kinds and the two framing units, with the operands of the
assembler syntax (spec 30_encoding.md R48, R50 to R55, R46, R47, R62). -/

namespace Sys2Proof

/-- One constructor per row of the opcode table. Signed operands are the deltas themselves, not the biased fields; an
operand outside its range has no encoding (R62), which `Instr.wellFormed` checks. -/
inductive Instr where
  /-- RGB (R50, R118). -/
  | rgb (r g b : Byte)
  /-- RGBA (R51, R119). -/
  | rgba (r g b a : Byte)
  /-- DIFF (R53, R120): each delta -2 to 1. -/
  | diff (dr dg db : Int)
  /-- INDEX (R52, R121): a slot number, 0 to 63. -/
  | index (idx : Fin 64)
  /-- LUMA (R54, R122): dg -32 to 31, dr - dg and db - dg -8 to 7. -/
  | luma (dg drDg dbDg : Int)
  /-- RUN (R55, R123): a length, 1 to 62. -/
  | run (n : Nat)
  /-- HEADER (R46, R112): the four fields after the magic. -/
  | header (width height : Word) (channels colorspace : Byte)
  /-- END (R47, R112). -/
  | endMark
  deriving DecidableEq, Repr

end Sys2Proof
end

