-- ==== Sys2Proof/WellFormed.lean ====
section
/-! DEFINITION. Which units have an encoding: the operand ranges (spec 30_encoding.md R57, R59, R62). -/

namespace Sys2Proof

/-- A legal CHANNELS byte: 3 or 4 (R23, R59). -/
def legalChannels (c : Byte) : Bool := c == 3 || c == 4

/-- A legal COLORSPACE byte: 0 or 1 (R23, R59). -/
def legalColorspace (c : Byte) : Bool := c == 0 || c == 1

/-- An integer in a range inclusive at both ends (R79). -/
def inRange (lo hi x : Int) : Bool := decide (lo ≤ x) && decide (x ≤ hi)

/-- The operands lie in the ranges of R57; a HEADER carries legal CHANNELS and COLORSPACE (R46, log 16). -/
def Instr.wellFormed : Instr → Bool
  | .rgb _ _ _ => true
  | .rgba _ _ _ _ => true
  | .diff dr dg db => inRange (-2) 1 dr && inRange (-2) 1 dg && inRange (-2) 1 db
  | .index _ => true
  | .luma dg drDg dbDg => inRange (-32) 31 dg && inRange (-8) 7 drDg && inRange (-8) 7 dbDg
  | .run n => decide (1 ≤ n) && decide (n ≤ Config.runMax)
  | .header _ _ ch cs => legalChannels ch && legalColorspace cs
  | .endMark => true

end Sys2Proof
end

