-- ==== Sys2Proof/Decode.lean ====
section
/-! DEFINITION. The decoder of stream units, total on any bytes and rejecting by name, and after it the encoder, both
written from the formats of spec 30_encoding.md (R46, R47, R50 to R57, R61). -/

namespace Sys2Proof

/-! ## Fields -/

/-- The field of `width` bits of a byte whose lowest bit is `low` (R7). -/
def byteField (b : Byte) (low width : Nat) : Nat := b.toNat / 2 ^ low % 2 ^ width

/-- A byte whose bits 7:6 are a 2-bit tag and whose low six bits are `low6` (R48). -/
def tagByte (tag : BitVec 2) (low6 : Nat) : Byte := BitVec.ofNat 8 (tag.toNat * 64 + low6)

/-- Big-endian 32-bit value of four bytes (R7, R35). -/
def be32 (b0 b1 b2 b3 : Byte) : Word :=
  BitVec.ofNat 32 (b0.toNat * 2 ^ 24 + b1.toNat * 2 ^ 16 + b2.toNat * 2 ^ 8 + b3.toNat)

/-- The four bytes of a 32-bit value, most significant first (R7, R35). -/
def u32be (v : Word) : List Byte :=
  [BitVec.ofNat 8 (v.toNat / 2 ^ 24), BitVec.ofNat 8 (v.toNat / 2 ^ 16), BitVec.ofNat 8 (v.toNat / 2 ^ 8),
    BitVec.ofNat 8 v.toNat]

/-! ## The chunk table -/

/-- The six chunk kinds (R48). -/
inductive ChunkKind where
  | rgb
  | rgba
  | diff
  | index
  | luma
  | run
  deriving DecidableEq, Repr

/-- A row of the chunk table: a byte `t` matches iff `t & mask = pattern` (R61). -/
structure ChunkRow where
  kind    : ChunkKind
  mask    : Byte
  pattern : Byte
  length  : Nat
  deriving DecidableEq, Repr

/-- The chunk table in the order its rows are tested: whole-byte tags first (R56, R61). -/
def chunkRows : List ChunkRow :=
  [⟨.rgb, 0xFF, Config.tagRgb, 4⟩, ⟨.rgba, 0xFF, Config.tagRgba, 5⟩, ⟨.diff, 0xC0, tagByte Config.tagDiff 0, 1⟩,
    ⟨.index, 0xC0, tagByte Config.tagIndex 0, 1⟩, ⟨.luma, 0xC0, tagByte Config.tagLuma 0, 2⟩,
    ⟨.run, 0xC0, tagByte Config.tagRun 0, 1⟩]

/-- The first row a tag byte matches; `none` is the malformed tag of R56 test 7. -/
def rowOf (t : Byte) : Option ChunkRow := chunkRows.find? fun row => t &&& row.mask == row.pattern

/-! ## Decoding -/

/-- Where in a stream a unit stands: the header at offset 0, chunks in the body, the end marker as the last eight
bytes. Framing units are located by place, never by content (R45, R132). -/
inductive Place where
  | head
  | body
  | tail
  deriving DecidableEq, Repr

/-- Why bytes hold no unit at a place. -/
inductive Reject where
  /-- No byte to read a tag from. -/
  | noTag
  /-- R56 test 7. -/
  | malformedTag
  /-- Fewer bytes than the chunk's length (R124). -/
  | truncatedChunk
  /-- Fewer than 14 header bytes (R112 check 2). -/
  | shortHeader
  /-- The first four bytes are not MAGIC (R112 check 1). -/
  | badMagic
  /-- The eight bytes are not the end marker (R112 check 4). -/
  | badEndMarker
  deriving DecidableEq, Repr

/-- The unit a kind's bytes hold, its operands recovered by subtracting the bias (R50 to R55, R57), and the bytes
after it. -/
def chunkOperands : ChunkKind → List Byte → Option (Instr × List Byte)
  | .rgb, _ :: r :: g :: b :: rest => some (.rgb r g b, rest)
  | .rgba, _ :: r :: g :: b :: a :: rest => some (.rgba r g b a, rest)
  | .diff, t :: rest =>
    some (.diff ((byteField t Config.diffLowR 2 : Nat) - Config.biasDiff)
      ((byteField t Config.diffLowG 2 : Nat) - Config.biasDiff)
      ((byteField t Config.diffLowB 2 : Nat) - Config.biasDiff), rest)
  | .index, t :: rest => some (.index (Fin.ofNat 64 (byteField t 0 6)), rest)
  | .luma, t :: u :: rest =>
    some (.luma ((byteField t 0 6 : Nat) - Config.biasLumaG)
      ((byteField u Config.lumaLowR 4 : Nat) - Config.biasLuma)
      ((byteField u Config.lumaLowB 4 : Nat) - Config.biasLuma), rest)
  | .run, t :: rest => some (.run (byteField t 0 6 + 1), rest)
  | _, _ => none

/-- A chunk: the tag byte alone decides the kind and so the length (R56, R114, R115). -/
def decodeChunk (bs : List Byte) : Except Reject (Instr × List Byte) :=
  match bs with
  | [] => .error .noTag
  | t :: _ =>
    match rowOf t with
    | none => .error .malformedTag
    | some row =>
      match chunkOperands row.kind bs with
      | none => .error .truncatedChunk
      | some unit => .ok unit

/-- The header (R46): the magic first, then the fields at fixed offsets (R112 checks 1 and 3). -/
def decodeHeader (bs : List Byte) : Except Reject (Instr × List Byte) :=
  if bs.take 4 ≠ Config.magic then .error .badMagic
  else
    match bs.drop 4 with
    | w0 :: w1 :: w2 :: w3 :: h0 :: h1 :: h2 :: h3 :: ch :: cs :: rest =>
      .ok (.header (be32 w0 w1 w2 w3) (be32 h0 h1 h2 h3) ch cs, rest)
    | _ => .error .shortHeader

/-- The end marker (R47). -/
def decodeEnd (bs : List Byte) : Except Reject (Instr × List Byte) :=
  if bs.take 8 = Config.endMarker then .ok (.endMark, bs.drop 8) else .error .badEndMarker

/-- The unit at the front of some bytes, and the bytes after it. -/
def decode : Place → List Byte → Except Reject (Instr × List Byte)
  | .head, bs => decodeHeader bs
  | .body, bs => decodeChunk bs
  | .tail, bs => decodeEnd bs

/-! ## Encoding -/

/-- Where a unit stands in a stream. -/
def Instr.place : Instr → Place
  | .rgb _ _ _ => .body
  | .rgba _ _ _ _ => .body
  | .diff _ _ _ => .body
  | .index _ => .body
  | .luma _ _ _ => .body
  | .run _ => .body
  | .header _ _ _ _ => .head
  | .endMark => .tail

/-- The bytes of a well-formed unit (R46, R47, R50 to R55). The fields of a byte do not overlap, so the sums are the
spec's `|` of shifted fields. -/
def encode : Instr → List Byte
  | .rgb r g b => [Config.tagRgb, r, g, b]
  | .rgba r g b a => [Config.tagRgba, r, g, b, a]
  | .diff dr dg db =>
    [tagByte Config.tagDiff
      ((dr + Config.biasDiff).toNat * 2 ^ Config.diffLowR + (dg + Config.biasDiff).toNat * 2 ^ Config.diffLowG
        + (db + Config.biasDiff).toNat * 2 ^ Config.diffLowB)]
  | .index idx => [tagByte Config.tagIndex idx.val]
  | .luma dg drDg dbDg =>
    [tagByte Config.tagLuma (dg + Config.biasLumaG).toNat,
      BitVec.ofNat 8 ((drDg + Config.biasLuma).toNat * 2 ^ Config.lumaLowR
        + (dbDg + Config.biasLuma).toNat * 2 ^ Config.lumaLowB)]
  | .run n => [tagByte Config.tagRun (n - 1)]
  | .header w h ch cs => Config.magic ++ u32be w ++ u32be h ++ [ch, cs]
  | .endMark => Config.endMarker

/-- The length in bytes of a unit (R48, R5). -/
def Instr.length : Instr → Nat
  | .rgb _ _ _ => 4
  | .rgba _ _ _ _ => 5
  | .diff _ _ _ => 1
  | .index _ => 1
  | .luma _ _ _ => 2
  | .run _ => 1
  | .header _ _ _ _ => Config.headerLength
  | .endMark => Config.endLength

/-! ## Words of the opcode table -/

/-- The place a row of the opcode table stands at, from the width the table gives it: 14 bytes is HEADER, 8 bytes END,
anything else a chunk. -/
def tablePlace (nbits : Nat) : Place :=
  if nbits = 112 then .head else if nbits = 64 then .tail else .body

/-- How many bytes a word is laid out in: the unit's place fixes it; a chunk gets at least the longest chunk's five. -/
def tableBytes (nbits : Nat) : Nat :=
  match tablePlace nbits with
  | .head => 14
  | .tail => 8
  | .body => max 5 (nbits / 8)

/-- The first `n` bytes of a word numbered with bit 0 the least significant bit of the first byte. -/
def wordBytes (n w : Nat) : List Byte := (List.range n).map fun k => BitVec.ofNat 8 (w / 256 ^ k)

/-- The instruction the decoder reads from a word of the opcode table; bits above `nbits` are 0. -/
def decodeTableWord (nbits w : Nat) : Option Instr :=
  match decode (tablePlace nbits) (wordBytes (tableBytes nbits) (w % 2 ^ nbits)) with
  | .ok (i, _) => some i
  | .error _ => none

end Sys2Proof
end

