-- ==== Sys2Proof/Machine/State.lean ====
section
/-! DEFINITION. The state of the block, as plain data: the two engines, the image unit's fault register, the host's side
of the interface; why a step can stop; and the state after power-on reset (spec 10_state.md R10 to R29). -/

namespace Sys2Proof.Machine

/-- PHASE (R25). The encoder never enters `fault` (R149). -/
inductive Phase where
  | idle
  | body
  | done
  | fault
  deriving DecidableEq, Repr

/-- The fault kinds of the hardware (R146); `none` is "no fault". -/
inductive FaultKind where
  | none
  | malformedLength
  | pixelCountMismatch
  | decodeError
  | headerError
  deriving DecidableEq, Repr

/-- The sub-cause of a DecodeError (R146); `none` for every other kind. -/
inductive Cause where
  | none
  | endMarker
  | malformedTag
  | truncatedChunk
  deriving DecidableEq, Repr

/-- The pixel cache: 64 pixel registers, no aliases, none hardwired (R14). -/
abbrev Cache := Vector Pixel 64

/-- The cache at the start of an operation (R14, R28). -/
def Cache.zero : Cache := Vector.replicate 64 Pixel.zero

/-- A byte memory: (offset, byte) pairs, offsets strictly rising. -/
structure Memory where
  cells : List Host.Cell
  deriving DecidableEq, Repr

/-- The canonical form: offsets strictly rising. Every listed byte differs from what an unlisted offset reads as,
because an unlisted offset reads as no value at all (log 6). -/
abbrev Memory.wf (m : Memory) : Prop := m.cells.Pairwise fun x y => x.1 < y.1

/-- The memory in which the host has put nothing. -/
def Memory.empty : Memory := ⟨[]⟩

/-- The Image value type (R135). -/
structure Image where
  width      : Word
  height     : Word
  channels   : Byte
  colorspace : Byte
  pixels     : List Pixel
  deriving DecidableEq, Repr

/-- The encoder engine. `widthReg`, `heightReg`, `fmtReg` are the host's registers 2 to 4, `width` to `colorspace` what
START latched from them (R23, R24, R91). -/
structure Encoder where
  phase      : Phase
  widthReg   : Word
  heightReg  : Word
  fmtReg     : Word
  width      : Word
  height     : Word
  channels   : Byte
  colorspace : Byte
  prev       : Pixel
  cache      : Cache
  run        : Nat
  idx        : Nat
  pix        : List Pixel
  out        : List Byte
  deriving DecidableEq, Repr

/-- The decoder engine. `pos` is its program counter (R16), `limit` is DEC.END (R19), `inp` is DEC.IN and `inLen` the
register DEC_INLEN (R32). -/
structure Decoder where
  phase      : Phase
  fault      : FaultKind
  cause      : Cause
  inLen      : Nat
  inp        : Memory
  width      : Word
  height     : Word
  channels   : Byte
  colorspace : Byte
  prev       : Pixel
  cache      : Cache
  pos        : Nat
  limit      : Nat
  npix       : Nat
  out        : List Pixel
  deriving DecidableEq, Repr

/-- What the host can ask for (R24, R162, R167, R168; log 12). -/
inductive Request where
  /-- Read a register by number (R24). -/
  | readReg (number : Nat)
  /-- Write a register by number (R24); a 1 to ENC_CTRL or DEC_CTRL is START. -/
  | writeReg (number value : Nat)
  /-- Put a whole stream in place as DEC.IN (R32, R168). -/
  | loadStream (bytes : List Byte)
  /-- Put a whole pixel sequence in place as ENC.PIX (R34, R167). -/
  | loadPixels (pixels : List Pixel)
  /-- Collect ENC.OUT (R101). -/
  | readEncOut
  /-- Collect DEC.OUT (R128). -/
  | readDecOut
  /-- Collect the decoded Image (R128). -/
  | readDecImage
  /-- Image from raw interleaved bytes (R136). -/
  | imageFromRaw (raw : List Byte) (width height : Word) (channels colorspace : Byte)
  /-- Image from a pixel sequence (R138). -/
  | imageFromPixels (pixels : List Pixel) (width height : Word) (channels colorspace : Byte)
  /-- Image back to interleaved bytes (R140). -/
  | imageToBytes (image : Image)
  deriving DecidableEq, Repr

/-- What a host request answers. -/
inductive Reply where
  | value (v : Nat)
  | bytes (bs : List Byte)
  | pixels (ps : List Pixel)
  | image (i : Image)
  deriving DecidableEq, Repr

/-- Who moves at one step (log 1). -/
inductive Turn where
  | host (r : Request)
  | encoder
  | decoder
  deriving DecidableEq, Repr

/-- Everything the spec gives the block, and four fields of the model's own: `cfg` (log 2), `agenda` (log 1), `reply`
(log 12), `draws` (log 5). -/
structure State where
  cfg      : Config
  enc      : Encoder
  dec      : Decoder
  imgFault : FaultKind
  agenda   : List Turn
  reply    : Option Reply
  draws    : Nat
  deriving DecidableEq, Repr

/-- Why the machine stops. These are not the hardware's faults, which are next states (R152). No operation of a host
that keeps its duties reaches one; all are safe, since the model stops where it says nothing (log 6, log 15). -/
inductive Fault where
  /-- MemRead asks for an offset at or past DEC_INLEN (R32); raised by fetch and by START's reads. Safe. -/
  | outsideStream
  /-- MemRead meets an offset below DEC_INLEN where the host put no byte (R168 broken); raised as above. Safe. -/
  | unwrittenByte
  /-- A pixel step or FINISH with ENC.IDX where no pixel of ENC.PIX is (R91 rules it out). Safe. -/
  | noSuchPixel
  /-- DEC.POS beyond DEC.END in BODY (R125 rules it out). Safe. -/
  | scanPastEnd
  deriving DecidableEq, Repr

/-- Situations the model gives no meaning: the rows of R158, each under its own name. All safe. -/
inductive Refusal where
  /-- An instruction of the opcode table that has no meaning yet; raised by exec's refused arms only. Safe. -/
  | notModelled (mnemonic : String)
  /-- START written while the engine's PHASE is BODY (R25, R158). Safe. -/
  | startDuringBody
  /-- A write of ENC_WIDTH, ENC_HEIGHT, ENC_FMT or DEC_INLEN during BODY (R24, R158). Safe. -/
  | configWriteDuringBody
  /-- A host write to DEC.IN or ENC.PIX during BODY (R31, R158). Safe. -/
  | bufferWriteDuringBody
  /-- Encoder START with len(ENC.PIX) other than width×height (R91, R158). Safe. -/
  | pixelCountAtStart
  /-- Encoder START with CHANNELS or COLORSPACE out of range (R91, R158). Safe. -/
  | formatAtStart
  /-- width×height above MAX_PIXELS, at encoder START or in a decoded header (R159). Safe. -/
  | tooManyPixels
  /-- Decoder START with DEC_INLEN above MAX_STREAM (R158). Safe. -/
  | streamTooLong
  /-- An encoder step that would make ENC.OUT longer than MAX_STREAM (R6; log 10). Safe. -/
  | outputTooLong
  /-- A Run step that would overflow a counter of RUN_W bits (R6, U19; log 10). Safe. -/
  | runCounterOverflow
  /-- A decoded header with CHANNELS or COLORSPACE out of range, under BAD_FMT_POLICY = refuse (R150). Safe. -/
  | headerFormat
  /-- An Image operation with channels or colorspace out of range (R136, R138, R158). Safe. -/
  | imageFormat
  /-- `to_bytes` of a value whose pixel count is not width×height: no such Image exists (R135; log 14). Safe. -/
  | notAnImage
  /-- Access to a register that R24 does not list. Safe. -/
  | noSuchRegister (number : Nat)
  /-- Read of a write-only register (R24). Safe. -/
  | readOfWriteOnly (number : Nat)
  /-- Write of a read-only register (R24). Safe. -/
  | writeOfReadOnly (number : Nat)
  /-- A non-zero value written to a reserved bit (R24). Safe. -/
  | reservedBits (number : Nat)
  /-- A value wider than the register's 32 bits (R24; log 9). Safe. -/
  | valueTooWide (number : Nat)
  /-- ENC.OUT read before DONE, or DEC.OUT or its Image before DONE or after FAULT (R158); DEC_WIDTH, DEC_HEIGHT or DEC_FMT
  read in BODY or in FAULT (R174). Safe. -/
  | resultNotAvailable
  deriving DecidableEq, Repr

/-- The encoder after power-on: PHASE = IDLE (R29); everything else is unspecified there, and the values are this
model's (DESIGN CHOICE, log 4). -/
def Encoder.reset : Encoder :=
  { phase := .idle, widthReg := 0, heightReg := 0, fmtReg := 0, width := 0, height := 0, channels := 0, colorspace := 0,
    prev := Pixel.start, cache := Cache.zero, run := 0, idx := 0, pix := [], out := [] }

/-- The decoder after power-on: PHASE = IDLE, FAULT = 0, CAUSE = 0 (R24, R29); everything else as for the encoder
(DESIGN CHOICE, log 4). -/
def Decoder.reset : Decoder :=
  { phase := .idle, fault := .none, cause := .none, inLen := 0, inp := Memory.empty, width := 0, height := 0,
    channels := 0, colorspace := 0, prev := Pixel.start, cache := Cache.zero, pos := 0, limit := 0, npix := 0, out := [] }

/-- The machine after power-on reset (R29), with the default parameters (R6) and nothing asked of it. -/
def State.reset : State :=
  { cfg := Config.default, enc := Encoder.reset, dec := Decoder.reset, imgFault := .none, agenda := [], reply := none,
    draws := 0 }

end Sys2Proof.Machine
end

