-- ==== Sys2Proof/Machine/Flags.lean ====
section
/-! DEFINITION. The block has no flags or condition codes (spec 10_state.md R18). What it has instead is here: the status
words with their codes (R24, R146) and the classifier's range tests (R79, R84, R85). -/

namespace Sys2Proof.Machine

/-- PHASE codes (R24). -/
def Phase.code : Phase → Nat
  | .idle => 0
  | .body => 1
  | .done => 2
  | .fault => 3

/-- FAULT codes (R146). -/
def FaultKind.code : FaultKind → Nat
  | .none => 0
  | .malformedLength => 1
  | .pixelCountMismatch => 2
  | .decodeError => 3
  | .headerError => 4

/-- CAUSE codes (R146). -/
def Cause.code : Cause → Nat
  | .none => 0
  | .endMarker => 1
  | .malformedTag => 2
  | .truncatedChunk => 3

/-- ENC_STATUS: bits 2:0 PHASE, the rest 0 (R24). -/
def encStatus (e : Encoder) : Nat := e.phase.code

/-- DEC_STATUS: bits 2:0 PHASE, 6:4 FAULT, 9:8 CAUSE, the rest 0 (R24). -/
def decStatus (d : Decoder) : Nat := d.phase.code + d.fault.code * 2 ^ 4 + d.cause.code * 2 ^ 8

/-- IMG_STATUS: bits 6:4 FAULT, the rest 0 (R24). -/
def imgStatus (k : FaultKind) : Nat := k.code * 2 ^ 4

/-- A FMT word: bits 7:0 CHANNELS, 15:8 COLORSPACE (R24). -/
def fmtWord (channels colorspace : Byte) : Nat := channels.toNat + colorspace.toNat * 2 ^ 8

/-- CHANNELS of a FMT word (R24). -/
def fmtChannels (w : Word) : Byte := w.extractLsb' 0 8

/-- COLORSPACE of a FMT word (R24). -/
def fmtColorspace (w : Word) : Byte := w.extractLsb' 8 8

/-- Legal CHANNELS and COLORSPACE together (R23). -/
def legalFormat (channels colorspace : Byte) : Bool := legalChannels channels && legalColorspace colorspace

/-- "all three deltas lie in [-2,1]" (R84). -/
def fitsDiff (dr dg db : Int) : Bool := inRange (-2) 1 dr && inRange (-2) 1 dg && inRange (-2) 1 db

/-- The LUMA test on dg and the two integer differences (R85, R77). -/
def fitsLuma (dr dg db : Int) : Bool :=
  inRange (-32) 31 dg && inRange (-8) 7 (dr - dg) && inRange (-8) 7 (db - dg)

end Sys2Proof.Machine
end

