-- ==== Sys2Proof/Machine/Operands.lean ====
section
/-! DEFINITION. Pixel arithmetic: wrap-around difference, hash, the two equalities, wrapping addition, and reading and
writing a cache slot (spec 40_pixel_arithmetic.md R70 to R79, 10_state.md R14). Pure and total. -/

namespace Sys2Proof.Machine

/-- `sdiff8`: the smallest-magnitude signed representative of x - y modulo 256, from its two unsigned forms (R70). -/
def sdiff8 (tie : DiffTie) (x y : Byte) : Int :=
  let u1 := (x - y).toNat
  let u2 := (y - x).toNat
  if u1 < u2 then u1
  else if u2 < u1 then -(u2 : Int)
  else if u1 = 0 then 0
  else tie.value

/-- `difference`: `sdiff8` on each channel (R71). -/
def difference (tie : DiffTie) (p q : Pixel) : Int × Int × Int × Int :=
  (sdiff8 tie p.r q.r, sdiff8 tie p.g q.g, sdiff8 tie p.b q.b, sdiff8 tie p.a q.a)

/-- The weighted channel sum of the hash (R73). -/
def hashSum (p : Pixel) : Nat := p.r.toNat * 3 + p.g.toNat * 5 + p.b.toNat * 7 + p.a.toNat * 11

/-- `hash`, a slot number (R73). -/
def pixelHash (p : Pixel) : Fin 64 := Fin.ofNat 64 (hashSum p)

/-- Full four-channel equality (R74). -/
def eq4 (p q : Pixel) : Bool := p.r == q.r && p.g == q.g && p.b == q.b && p.a == q.a

/-- RGB-only equality (R75); no rule calls it. -/
def eq3 (p q : Pixel) : Bool := p.r == q.r && p.g == q.g && p.b == q.b

/-- Wrapping addition of an integer to a byte (R76). -/
def add8 (x : Byte) (d : Int) : Byte := BitVec.ofInt 8 (x.toNat + d)

/-- Deltas added to the three colour channels, alpha carried (R120, R122). -/
def addDeltas (p : Pixel) (dr dg db : Int) : Pixel := ⟨add8 p.r dr, add8 p.g dg, add8 p.b db, p.a⟩

/-- `x[k]`: the pixel in slot k (R7, R14). -/
def slot (cache : Cache) (k : Fin 64) : Pixel := cache[k.val]

/-- The cache write every rule makes: a pixel goes to the slot of its own hash (R14). -/
def remember (cache : Cache) (p : Pixel) : Cache := cache.set (pixelHash p).val p

/-- width×height, exact (R78). -/
def area (width height : Word) : Nat := width.toNat * height.toNat

/-- The flat place of pixel (x, y), row-major (R34). -/
def pixelIndex (width : Word) (x y : Nat) : Nat := y * width.toNat + x

end Sys2Proof.Machine
end

