-- ==== Sys2Proof/Machine/Ops.lean ====
section
/-! DEFINITION. The named operations over the state that every meaning is written with: stream memory, producing a
pixel, moving the position, raising a fault and clearing it, appending output, drawing a free value. -/

namespace Sys2Proof.Machine

/-- The outcome of anything the machine does. -/
abbrev Result := Host.Outcome State Fault Refusal

/-- Do one thing, then another with the state it leaves. -/
def andThen : Result → (State → Result) → Result
  | .next s, f => f s
  | .fault r, _ => .fault r
  | .refused r, _ => .refused r

/-! ## Stream memory -/

/-- What an offset no cell lists reads as: no value (log 6). -/
def Memory.unlisted : Option Byte := none

/-- The byte a list of cells holds at an offset. -/
def readCells : List Host.Cell → Nat → Option Byte
  | [], _ => Memory.unlisted
  | c :: cs, a => if c.1 = a then some c.2 else readCells cs a

/-- The cells with the byte at one offset replaced or added, in rising order. -/
def writeCells : List Host.Cell → Nat → Byte → List Host.Cell
  | [], a, b => [(a, b)]
  | c :: cs, a, b =>
    if a < c.1 then (a, b) :: c :: cs
    else if a = c.1 then (a, b) :: cs
    else c :: writeCells cs a b

/-- One byte of a memory. -/
def Memory.read (m : Memory) (a : Nat) : Option Byte := readCells m.cells a

/-- A memory with one byte written. -/
def Memory.write (m : Memory) (a : Nat) (b : Byte) : Memory := ⟨writeCells m.cells a b⟩

/-- The `n` bytes from an offset, in stream order, if all of them are there. -/
def Memory.readBytes (m : Memory) (a : Nat) : Nat → Option (List Byte)
  | 0 => some []
  | n + 1 =>
    match m.read a, m.readBytes (a + 1) n with
    | some b, some bs => some (b :: bs)
    | _, _ => none

/-- A memory with bytes written from an offset on. -/
def Memory.writeBytes (m : Memory) (a : Nat) : List Byte → Memory
  | [] => m
  | b :: bs => (m.write a b).writeBytes (a + 1) bs

/-- A whole stream put in place at offset 0 (R32, R168). -/
def Memory.ofBytes (bs : List Byte) : Memory := Memory.empty.writeBytes 0 bs

/-- `MemRead(addr, n)`: defined only when addr + n ≤ DEC_INLEN (R32). -/
def memRead (d : Decoder) (addr n : Nat) : Except Fault (List Byte) :=
  if d.inLen < addr + n then .error .outsideStream
  else
    match d.inp.readBytes addr n with
    | none => .error .unwrittenByte
    | some bs => .ok bs

/-! ## The decoder's state -/

/-- `produce(p)`: append, count, make it the previous pixel, remember it at its hash (R116). -/
def produce (p : Pixel) (s : State) : State :=
  { s with
    dec :=
      { s.dec with
        out := s.dec.out ++ [p]
        npix := s.dec.npix + 1
        prev := p
        cache := remember s.dec.cache p } }

/-- `repeat n times: produce(DEC.PREV)` (R123). -/
def produceRun : Nat → State → State
  | 0, s => s
  | n + 1, s => produceRun n (produce s.dec.prev s)

/-- `pc <- POS + n` (R16, R114). -/
def advance (n : Nat) (s : State) : State := { s with dec := { s.dec with pos := s.dec.pos + n } }

/-- The HEADER fields written to the decoder's registers (R112 check 3). -/
def latchHeader (width height : Word) (channels colorspace : Byte) (s : State) : State :=
  { s with
    dec := { s.dec with width := width, height := height, channels := channels, colorspace := colorspace } }

/-- The initialisation after the checks pass, and PHASE = BODY (R111, R113). -/
def beginScan (s : State) : State :=
  { s with
    dec :=
      { s.dec with
        limit := s.dec.inLen - Config.endLength
        pos := Config.headerLength
        prev := Pixel.start
        cache := Cache.zero
        npix := 0
        out := []
        phase := .body } }

/-- PHASE = DONE (R127). -/
def decoderDone (s : State) : State := { s with dec := { s.dec with phase := .done } }

/-! ## Taking a fault, and what ends one -/

/-- `raise K(cause)` in the decoder: the code, the cause, PHASE = FAULT, and nothing else. No state is saved and control
goes nowhere (R152). -/
def raiseDec (k : FaultKind) (c : Cause) (s : State) : State :=
  { s with dec := { s.dec with fault := k, cause := c, phase := .fault } }

/-- There is no return from a fault; the next START clears DEC.FAULT, and DEC.CAUSE with it (R26, R111, R153). -/
def clearDecFault (s : State) : State := { s with dec := { s.dec with fault := .none, cause := .none } }

/-- `raise K` in an Image constructor: IMG.FAULT, and no Image (R137, R152). -/
def raiseImg (k : FaultKind) (s : State) : State := { s with imgFault := k, reply := none }

/-- A construction that succeeds answers the Image and leaves IMG.FAULT 0 (R137). -/
def giveImage (i : Image) (s : State) : State := { s with imgFault := .none, reply := some (.image i) }

/-! ## The encoder's state -/

/-- `emit(bytes)`: append to ENC.OUT (R33). A stream longer than MAX_STREAM has no meaning (log 10). -/
def emit (bs : List Byte) (s : State) : Result :=
  if Config.exceeds s.cfg.maxStream (s.enc.out.length + bs.length) then .refused .outputTooLong
  else .next { s with enc := { s.enc with out := s.enc.out ++ bs } }

/-- `ENC.RUN <- n` and `ENC.PREV <- p` (R93, R94). -/
def setRunPrev (n : Nat) (p : Pixel) (s : State) : State :=
  { s with enc := { s.enc with run := n, prev := p } }

/-- The pending run is written: `ENC.RUN <- 0` (R94, R100). -/
def clearRun (s : State) : State := { s with enc := { s.enc with run := 0 } }

/-- `ENC.CACHE[hash(p)] <- p` (R94). -/
def encRemember (p : Pixel) (s : State) : State :=
  { s with enc := { s.enc with cache := remember s.enc.cache p } }

/-- `ENC.IDX <- ENC.IDX + 1` (R92). -/
def nextPixel (s : State) : State := { s with enc := { s.enc with idx := s.enc.idx + 1 } }

/-- PHASE = DONE (R100). -/
def encoderDone (s : State) : State := { s with enc := { s.enc with phase := .done } }

/-! ## The host's side -/

/-- Answer a host request. -/
def answer (r : Reply) (s : State) : State := { s with reply := some r }

/-- A host request that answers nothing. -/
def noAnswer (s : State) : State := { s with reply := none }

/-- Answer a free value, a fresh one (U13, U14; log 5). -/
def answerFree (s : State) : State :=
  { s with reply := some (.value (Config.freeValue s.draws)), draws := s.draws + 1 }

end Sys2Proof.Machine
end

