-- ==== Sys2Proof/Machine/DeltaChunks.lean ====
section
/-! DEFINITION. The chunks that add to the previous pixel: DIFF and LUMA (spec 43_decoder.md R120, R122). -/

namespace Sys2Proof.Machine

/-- DIFF: three deltas, wrapping, alpha unchanged (R120). -/
def execDiff (dr dg db : Int) (s : State) : Result :=
  .next (advance 1 (produce (addDeltas s.dec.prev dr dg db) s))

/-- LUMA: dr = (dr - dg) + dg, db = (db - dg) + dg, then as DIFF (R122). -/
def execLuma (dg drDg dbDg : Int) (s : State) : Result :=
  .next (advance 2 (produce (addDeltas s.dec.prev (drDg + dg) dg (dbDg + dg)) s))

end Sys2Proof.Machine
end

