-- ==== Sys2Proof/Machine/Framing.lean ====
section
/-! DEFINITION. The two framing units, HEADER and END. Neither is a chunk: the decoder START step runs them, HEADER at
offset 0 and END at the last eight bytes (spec 43_decoder.md R111 to R113, 60_exceptions.md R150, R159; log 7). -/

namespace Sys2Proof.Machine

/-- MAX_PIXELS on the header's width×height (R159). -/
def checkHeaderArea (s : State) : Result :=
  if Config.exceeds s.cfg.maxPixels (area s.dec.width s.dec.height) then .refused .tooManyPixels else .next s

/-- HEADER: the fields are latched; a CHANNELS or COLORSPACE out of range is handled by BAD_FMT_POLICY (R150), then a
product above MAX_PIXELS by R159 (R112 check 3; the order of the two is log 8). -/
def execHeader (width height : Word) (channels colorspace : Byte) (s : State) : Result :=
  let s1 := latchHeader width height channels colorspace s
  if legalFormat channels colorspace then checkHeaderArea s1
  else
    match s.cfg.badFmtPolicy with
    | .refuse => .refused .headerFormat
    | .headerError => .next (raiseDec .headerError .none s1)
    | .pass => checkHeaderArea s1

/-- END: the marker is stripped and the running state initialised; the body scan begins (R112 check 4, R113). -/
def execEnd (s : State) : Result := .next (beginScan s)

end Sys2Proof.Machine
end

