-- ==== Sys2Proof/Machine/RawChunks.lean ====
section
/-! DEFINITION. The chunks that carry raw channels: RGB and RGBA (spec 43_decoder.md R118, R119). Each produces one pixel
and moves DEC.POS past itself; none raises anything itself (R117). -/

namespace Sys2Proof.Machine

/-- RGB: the three channels, alpha of the previous pixel (R118). -/
def execRgb (r g b : Byte) (s : State) : Result := .next (advance 4 (produce ⟨r, g, b, s.dec.prev.a⟩ s))

/-- RGBA: the four channels (R119). -/
def execRgba (r g b a : Byte) (s : State) : Result := .next (advance 5 (produce ⟨r, g, b, a⟩ s))

end Sys2Proof.Machine
end

