-- ==== Sys2Proof/Machine/RepeatChunks.lean ====
section
/-! DEFINITION. The chunks that repeat a pixel the decoder holds: INDEX and RUN (spec 43_decoder.md R121, R123). -/

namespace Sys2Proof.Machine

/-- INDEX: the stored index is the slot number verbatim; the write that follows goes to the pixel's hash (R121). -/
def execIndex (idx : Fin 64) (s : State) : Result := .next (advance 1 (produce (slot s.dec.cache idx) s))

/-- RUN: n copies of the previous pixel, not checked against the pixels still owed (R123). -/
def execRun (n : Nat) (s : State) : Result := .next (advance 1 (produceRun n s))

end Sys2Proof.Machine
end

