-- ==== Sys2Proof/Machine/Dispatch.lean ====
section
/-! DEFINITION. One arm per instruction: which meaning runs. -/

namespace Sys2Proof.Machine

def exec (i : Instr) (s : State) : Host.Outcome State Fault Refusal :=
  match i with
  | .rgb r g b => Sys2Proof.Machine.execRgb r g b s
  | .rgba r g b a => Sys2Proof.Machine.execRgba r g b a s
  | .diff dr dg db => Sys2Proof.Machine.execDiff dr dg db s
  | .index idx => Sys2Proof.Machine.execIndex idx s
  | .luma dg drDg dbDg => Sys2Proof.Machine.execLuma dg drDg dbDg s
  | .run n => Sys2Proof.Machine.execRun n s
  | .header w h ch cs => Sys2Proof.Machine.execHeader w h ch cs s
  | .endMark => Sys2Proof.Machine.execEnd s

end Sys2Proof.Machine
end

