-- ==== Sys2Proof/Machine/DecoderEngine.lean ====
section
/-! DEFINITION. The decoder engine: fetching a unit, the START step with its checks in order, the chunk step, FINISH
(spec 43_decoder.md R110 to R115, R124 to R128). -/

namespace Sys2Proof.Machine

/-! ## Fetch -/

/-- What a fetch at DEC.POS finds. -/
inductive Fetched where
  | stopped (f : Fault)
  | malformed
  | truncated
  | unit (i : Instr)
  deriving DecidableEq, Repr

/-- The bytes of a chunk whose row is known, and its operands (R114, R115, R124): nothing at or beyond DEC.END is read. -/
def fetchPayload (d : Decoder) (row : ChunkRow) : Fetched :=
  if d.limit < d.pos + row.length then .truncated
  else
    match memRead d d.pos row.length with
    | .error f => .stopped f
    | .ok bs =>
      match decodeChunk bs with
      | .ok (i, _) => .unit i
      | .error .malformedTag => .malformed
      | .error _ => .truncated

/-- Fetch: the tag byte first and alone; its row gives the length; then the chunk's bytes (R114, R115). -/
def fetch (d : Decoder) : Fetched :=
  match memRead d d.pos 1 with
  | .error f => .stopped f
  | .ok bs =>
    match bs with
    | [] => .malformed
    | t :: _ =>
      match rowOf t with
      | none => .malformed
      | some row => fetchPayload d row

/-! ## Chunk step and FINISH -/

/-- The chunk step (R114): the two faults are raised before the chunk's rule runs. -/
def chunkStep (s : State) : Result :=
  match fetch s.dec with
  | .stopped f => .fault f
  | .malformed => .next (raiseDec .decodeError .malformedTag s)
  | .truncated => .next (raiseDec .decodeError .truncatedChunk s)
  | .unit i => exec i s

/-- FINISH: the exact product against the produced count (R127). -/
def decoderFinish (s : State) : Result :=
  if s.dec.npix ≠ area s.dec.width s.dec.height then .next (raiseDec .pixelCountMismatch .none s)
  else .next (decoderDone s)

/-- One decoder step. In BODY: a chunk while DEC.POS < DEC.END (R114, R125), FINISH at DEC.END (R127). In any other phase
no step is enabled and nothing changes (R169). -/
def decoderStep (s : State) : Result :=
  if s.dec.phase = .body then
    if s.dec.pos < s.dec.limit then chunkStep s
    else if s.dec.pos = s.dec.limit then decoderFinish s
    else .fault .scanPastEnd
  else .next s

/-! ## START -/

/-- Check 4: the last eight bytes (R112). Not made when check 3 has raised. -/
def startCheckEnd (s : State) : Result :=
  if s.dec.fault ≠ .none then .next s
  else
    match memRead s.dec (s.dec.inLen - Config.endLength) Config.endLength with
    | .error f => .fault f
    | .ok bs =>
      match decode .tail bs with
      | .ok (i, _) => exec i s
      | .error _ => .next (raiseDec .decodeError .endMarker s)

/-- Checks 2 and 3: room for header and marker, then the header's fields (R112). -/
def startCheckHeader (s : State) : Result :=
  if s.dec.inLen < Config.headerLength + Config.endLength then .next (raiseDec .decodeError .endMarker s)
  else
    match memRead s.dec 0 Config.headerLength with
    | .error f => .fault f
    | .ok bs =>
      match decode .head bs with
      | .ok (i, _) => andThen (exec i s) startCheckEnd
      | .error _ => .next (raiseDec .headerError .none s)

/-- Check 1: the magic, before anything else (R112). -/
def startCheckMagic (s : State) : Result :=
  if s.dec.inLen < 4 then .next (raiseDec .headerError .none s)
  else
    match memRead s.dec 0 4 with
    | .error f => .fault f
    | .ok bs => if bs = Config.magic then startCheckHeader s else .next (raiseDec .headerError .none s)

/-- The decoder START step: one step, which runs HEADER and END (R111; log 7). Its two refusals come before its checks
(log 21). -/
def decoderStart (s : State) : Result :=
  if s.dec.phase = .body then .refused .startDuringBody
  else if Config.exceeds s.cfg.maxStream s.dec.inLen then .refused .streamTooLong
  else startCheckMagic (clearDecFault s)

end Sys2Proof.Machine
end

