-- ==== Sys2Proof/Machine/Classifier.lean ====
section
/-! DEFINITION. The chunk classifier: a pure function of current pixel, previous pixel and cache (spec 41_classifier.md
R80 to R86). -/

namespace Sys2Proof.Machine

/-- One of six chunk kinds with its payload (R80). -/
inductive Verdict where
  | run
  | index (k : Fin 64)
  | rgba (r g b a : Byte)
  | diff (dr dg db : Int)
  | luma (dg drDg dbDg : Int)
  | rgb (r g b : Byte)
  deriving DecidableEq, Repr

/-- Step 4 of the decision order: by the deltas (R84 to R86). -/
def classifyDeltas (cur : Pixel) (dr dg db : Int) : Verdict :=
  if fitsDiff dr dg db then .diff dr dg db
  else if fitsLuma dr dg db then .luma dg (dr - dg) (db - dg)
  else .rgb cur.r cur.g cur.b

/-- `classify`: first match wins (R80). -/
def classify (tie : DiffTie) (cur prev : Pixel) (cache : Cache) : Verdict :=
  if eq4 cur prev then .run
  else if eq4 cur (slot cache (pixelHash cur)) then .index (pixelHash cur)
  else if cur.a ≠ prev.a then .rgba cur.r cur.g cur.b cur.a
  else
    match difference tie cur prev with
    | (dr, dg, db, _) => classifyDeltas cur dr dg db

end Sys2Proof.Machine
end

