-- ==== Sys2Proof/Machine/EncoderEngine.lean ====
section
/-! DEFINITION. The encoder engine: START, the pixel step (Run step or chunk step), the run flush, FINISH (spec
42_encoder.md R90 to R101). -/

namespace Sys2Proof.Machine

/-! ## Bytes -/

/-- `flush_run(n)`, by its closed form: n/62 full chunks and one for a non-zero remainder (R97). -/
def flushRun (n : Nat) : List Byte :=
  List.replicate (n / Config.runMax) (tagByte Config.tagRun (Config.runMax - 1))
    ++ (if n % Config.runMax = 0 then [] else [tagByte Config.tagRun (n % Config.runMax - 1)])

/-- `bytes_of(c)`: the chunk's bytes; Run is not serialized here (R95). -/
def bytesOf : Verdict → List Byte
  | .run => []
  | .index k => encode (.index k)
  | .rgba r g b a => encode (.rgba r g b a)
  | .diff dr dg db => encode (.diff dr dg db)
  | .luma dg drDg dbDg => encode (.luma dg drDg dbDg)
  | .rgb r g b => encode (.rgb r g b)

/-! ## START -/

/-- What START latches and initialises, before the header is written (R91). -/
def beginEncode (s : State) : State :=
  { s with
    enc :=
      { s.enc with
        width := s.enc.widthReg
        height := s.enc.heightReg
        channels := fmtChannels s.enc.fmtReg
        colorspace := fmtColorspace s.enc.fmtReg
        prev := Pixel.start
        cache := Cache.zero
        run := 0
        idx := 0
        out := []
        phase := .body } }

/-- The header of the image being encoded (R91, R46). -/
def encoderHeader (e : Encoder) : List Byte := encode (.header e.width e.height e.channels e.colorspace)

/-- The encoder START step: the four admission tests of R91, each a refusal of its own (R158), then the header. Which test
names the refusal when several fail is the model's (log 21). -/
def encoderStart (s : State) : Result :=
  if s.enc.phase = .body then .refused .startDuringBody
  else if legalFormat (fmtChannels s.enc.fmtReg) (fmtColorspace s.enc.fmtReg) = false then .refused .formatAtStart
  else if s.enc.pix.length ≠ area s.enc.widthReg s.enc.heightReg then .refused .pixelCountAtStart
  else if Config.exceeds s.cfg.maxPixels (area s.enc.widthReg s.enc.heightReg) then .refused .tooManyPixels
  else emit (encoderHeader (beginEncode s).enc) (beginEncode s)

/-! ## Pixel steps -/

/-- A counter value that RUN_W bits cannot hold (R6, U19; log 10). -/
def runOverflows (width : Option Nat) (n : Nat) : Bool :=
  match width with
  | none => false
  | some w => decide (2 ^ w ≤ n)

/-- The Run step: count it; the cache is not written and nothing is emitted (R93). -/
def runStep (cur : Pixel) (s : State) : Result :=
  if runOverflows s.cfg.runWidth (s.enc.run + 1) then .refused .runCounterOverflow
  else .next (nextPixel (setRunPrev (s.enc.run + 1) cur s))

/-- The cache write of a chunk step: every kind except Index (R94, R96). -/
def rememberUnlessIndex (v : Verdict) (cur : Pixel) (s : State) : State :=
  match v with
  | .index _ => s
  | _ => encRemember cur s

/-- The chunk step: the pending run first, then the chunk, then PREV, then the cache (R94). -/
def emitChunk (v : Verdict) (cur : Pixel) (s : State) : Result :=
  andThen (emit (flushRun s.enc.run ++ bytesOf v) s) fun t =>
    .next (nextPixel (rememberUnlessIndex v cur (setRunPrev 0 cur t)))

/-- The pixel step (R92): classify on the state before the step, then R93 or R94. -/
def pixelStep (s : State) : Result :=
  match s.enc.pix[s.enc.idx]? with
  | none => .fault .noSuchPixel
  | some cur =>
    match classify s.cfg.diffTie cur s.enc.prev s.enc.cache with
    | .run => runStep cur s
    | v => emitChunk v cur s

/-- FINISH: the still-pending run, the end marker, PHASE = DONE (R100). -/
def encoderFinish (s : State) : Result :=
  andThen (emit (flushRun s.enc.run ++ encode .endMark) s) fun t => .next (encoderDone (clearRun t))

/-- One encoder step. In BODY: a pixel while ENC.IDX < width×height (R92), FINISH at the last (R100). In any other phase
no step is enabled and nothing changes (R169). -/
def encoderStep (s : State) : Result :=
  if s.enc.phase = .body then
    if s.enc.idx < area s.enc.width s.enc.height then pixelStep s
    else if s.enc.idx = area s.enc.width s.enc.height then encoderFinish s
    else .fault .noSuchPixel
  else .next s

end Sys2Proof.Machine
end

