-- ==== Sys2Proof/Machine/ImageUnit.lean ====
section
/-! DEFINITION. The Image value type and its operations: the two constructors and the accessor back to bytes (spec
44_image_interface.md R135 to R143). -/

namespace Sys2Proof.Machine

/-- The Image invariant: the pixel count is width×height, exactly (R135). -/
def Image.wf (i : Image) : Bool := decide (i.pixels.length = area i.width i.height)

/-- Pixel (x, y) of an Image (R34). -/
def Image.pixelAt (i : Image) (x y : Nat) : Option Pixel := i.pixels[pixelIndex i.width x y]?

/-- Raw bytes sliced four at a time (R136). -/
def slice4 : List Byte → List Pixel
  | r :: g :: b :: a :: rest => ⟨r, g, b, a⟩ :: slice4 rest
  | _ => []

/-- Raw bytes sliced three at a time, alpha 255 (R136). -/
def slice3 : List Byte → List Pixel
  | r :: g :: b :: rest => ⟨r, g, b, 255⟩ :: slice3 rest
  | _ => []

/-- The pixels of raw bytes, by channel count (R136 step 2). -/
def slicePixels (channels : Byte) (raw : List Byte) : List Pixel :=
  if channels = 4 then slice4 raw else slice3 raw

/-- The bytes of one pixel: r, g, b and then a only when channels = 4 (R140). -/
def pixelBytes (channels : Byte) (p : Pixel) : List Byte :=
  if channels = 4 then [p.r, p.g, p.b, p.a] else [p.r, p.g, p.b]

/-- `to_bytes` (R140). -/
def toBytes (i : Image) : List Byte := i.pixels.flatMap (pixelBytes i.channels)

/-- The count check and the result, common to both constructors (R136 steps 3 and 4, R138). -/
def construct (pixels : List Pixel) (width height : Word) (channels colorspace : Byte) (s : State) : Result :=
  if pixels.length ≠ area width height then .next (raiseImg .pixelCountMismatch s)
  else .next (giveImage ⟨width, height, channels, colorspace, pixels⟩ s)

/-- Constructor from raw interleaved bytes; the length check comes before the count check (R136). -/
def imageFromRaw (raw : List Byte) (width height : Word) (channels colorspace : Byte) (s : State) : Result :=
  if legalFormat channels colorspace = false then .refused .imageFormat
  else if raw.length % channels.toNat ≠ 0 then .next (raiseImg .malformedLength s)
  else construct (slicePixels channels raw) width height channels colorspace s

/-- Constructor from a pixel sequence (R138). -/
def imageFromPixels (pixels : List Pixel) (width height : Word) (channels colorspace : Byte) (s : State) : Result :=
  if legalFormat channels colorspace = false then .refused .imageFormat
  else construct pixels width height channels colorspace s

/-- The accessor as a host operation. A value that breaks the Image invariant, or whose CHANNELS is not 3 or 4, is no
Image the accessor is described for (R135, R140; log 14). -/
def imageToBytes (i : Image) (s : State) : Result :=
  if legalChannels i.channels = false then .refused .imageFormat
  else if i.wf = false then .refused .notAnImage
  else .next (answer (.bytes (toBytes i)) s)

end Sys2Proof.Machine
end

