-- ==== Sys2Proof/Machine/HostPort.lean ====
section
/-! DEFINITION. The host's side of the interface: the register map with its access column, handing over the inputs,
collecting the results, the Image operations (spec 10_state.md R24, 60_exceptions.md R158 and R162,
70_reset_and_hazards.md R167, R168, R174). -/

namespace Sys2Proof.Machine

/-- The registers that exist (R24). -/
inductive Reg where
  | encCtrl
  | encStatus
  | encWidth
  | encHeight
  | encFmt
  | encIdx
  | encOutLen
  | decCtrl
  | decStatus
  | decInLen
  | decWidth
  | decHeight
  | decFmt
  | decNpix
  | decPos
  | imgStatus
  deriving DecidableEq, Repr

/-- The register of a number; 7 and 17 upward do not exist (R24). -/
def regOf : Nat → Option Reg
  | 0 => some .encCtrl
  | 1 => some .encStatus
  | 2 => some .encWidth
  | 3 => some .encHeight
  | 4 => some .encFmt
  | 5 => some .encIdx
  | 6 => some .encOutLen
  | 8 => some .decCtrl
  | 9 => some .decStatus
  | 10 => some .decInLen
  | 11 => some .decWidth
  | 12 => some .decHeight
  | 13 => some .decFmt
  | 14 => some .decNpix
  | 15 => some .decPos
  | 16 => some .imgStatus
  | _ => none

/-! ## Reads -/

/-- DEC_POS and DEC_NPIX are unspecified after HeaderError and after END_MARKER (R147, U14). -/
def diagnosticsOpen (d : Decoder) : Bool :=
  d.phase == .fault && (d.fault == .headerError || d.cause == .endMarker)

/-- A register that answers its value. -/
def answerValue (v : Nat) (s : State) : Result := .next (answer (.value v) s)

/-- DEC_POS and DEC_NPIX: the value, or a free one where it is unspecified (R147). -/
def answerDiagnostic (v : Nat) (s : State) : Result :=
  if diagnosticsOpen s.dec then .next (answerFree s) else answerValue v s

/-- ENC_OUTLEN: defined when PHASE = DONE, a free value otherwise (R24, U13). -/
def answerOutLen (s : State) : Result :=
  if s.enc.phase = .done then answerValue s.enc.out.length s else .next (answerFree s)

/-- DEC_WIDTH, DEC_HEIGHT, DEC_FMT, the outputs of the decoder that are registers: answered in DONE, refused in BODY and in
FAULT (R168, R174); in IDLE, where no operation has run, they answer what they hold (DEDUCED, log 13). -/
def answerResult (v : Nat) (s : State) : Result :=
  match s.dec.phase with
  | .idle => answerValue v s
  | .body => .refused .resultNotAvailable
  | .done => answerValue v s
  | .fault => .refused .resultNotAvailable

/-- A register read, by R24. No read has a side effect on the engines (R39). The spec refuses only the writes of ENC_WIDTH,
ENC_HEIGHT, ENC_FMT and DEC_INLEN during BODY; that a read of them is answered in BODY as in every phase is the model's
choice (DESIGN CHOICE, log 20). -/
def readReg (n : Nat) (s : State) : Result :=
  match regOf n with
  | none => .refused (.noSuchRegister n)
  | some .encCtrl => .refused (.readOfWriteOnly n)
  | some .encStatus => answerValue (encStatus s.enc) s
  | some .encWidth => answerValue s.enc.widthReg.toNat s
  | some .encHeight => answerValue s.enc.heightReg.toNat s
  | some .encFmt => answerValue s.enc.fmtReg.toNat s
  | some .encIdx => answerValue s.enc.idx s
  | some .encOutLen => answerOutLen s
  | some .decCtrl => .refused (.readOfWriteOnly n)
  | some .decStatus => answerValue (decStatus s.dec) s
  | some .decInLen => answerValue s.dec.inLen s
  | some .decWidth => answerResult s.dec.width.toNat s
  | some .decHeight => answerResult s.dec.height.toNat s
  | some .decFmt => answerResult (fmtWord s.dec.channels s.dec.colorspace) s
  | some .decNpix => answerDiagnostic s.dec.npix s
  | some .decPos => answerDiagnostic s.dec.pos s
  | some .imgStatus => answerValue (imgStatus s.imgFault) s

/-! ## Writes -/

/-- A write of a CTRL register: bit 0 is START, bits 31:1 are reserved; a 0 starts nothing (R24, log 18). The value
is looked at before the phase (log 21). -/
def writeCtrl (n v : Nat) (start : State → Result) (s : State) : Result :=
  if 2 ^ 32 ≤ v then .refused (.valueTooWide n)
  else if 1 < v then .refused (.reservedBits n)
  else if v = 1 then start (noAnswer s)
  else .next (noAnswer s)

/-- A write of one of the encoder's 32-bit configuration registers, not during BODY (R24). -/
def writeEncConfig (n v : Nat) (set : Word → Encoder → Encoder) (s : State) : Result :=
  if s.enc.phase = .body then .refused .configWriteDuringBody
  else if 2 ^ 32 ≤ v then .refused (.valueTooWide n)
  else .next (noAnswer { s with enc := set (BitVec.ofNat 32 v) s.enc })

/-- A write of DEC_INLEN, a natural number, not during BODY (R24). -/
def writeInLen (v : Nat) (s : State) : Result :=
  if s.dec.phase = .body then .refused .configWriteDuringBody
  else .next (noAnswer { s with dec := { s.dec with inLen := v } })

/-- A write of ENC_FMT: bits 31:16 are reserved (R24). They are looked at before the phase (log 21). -/
def writeFmt (n v : Nat) (s : State) : Result :=
  if 2 ^ 16 ≤ v ∧ v < 2 ^ 32 then .refused (.reservedBits n)
  else writeEncConfig n v (fun w e => { e with fmtReg := w }) s

/-- A register write, by R24. -/
def writeReg (n v : Nat) (s : State) : Result :=
  match regOf n with
  | none => .refused (.noSuchRegister n)
  | some .encCtrl => writeCtrl n v encoderStart s
  | some .encWidth => writeEncConfig n v (fun w e => { e with widthReg := w }) s
  | some .encHeight => writeEncConfig n v (fun w e => { e with heightReg := w }) s
  | some .encFmt => writeFmt n v s
  | some .decCtrl => writeCtrl n v decoderStart s
  | some .decInLen => writeInLen v s
  | some .encStatus => .refused (.writeOfReadOnly n)
  | some .encIdx => .refused (.writeOfReadOnly n)
  | some .encOutLen => .refused (.writeOfReadOnly n)
  | some .decStatus => .refused (.writeOfReadOnly n)
  | some .decWidth => .refused (.writeOfReadOnly n)
  | some .decHeight => .refused (.writeOfReadOnly n)
  | some .decFmt => .refused (.writeOfReadOnly n)
  | some .decNpix => .refused (.writeOfReadOnly n)
  | some .decPos => .refused (.writeOfReadOnly n)
  | some .imgStatus => .refused (.writeOfReadOnly n)

/-! ## Inputs and results -/

/-- DEC.IN handed over whole, not during BODY (R31, R32). -/
def loadStream (bs : List Byte) (s : State) : Result :=
  if s.dec.phase = .body then .refused .bufferWriteDuringBody
  else .next (noAnswer { s with dec := { s.dec with inp := Memory.ofBytes bs } })

/-- ENC.PIX handed over whole, not during BODY (R31, R34). -/
def loadPixels (ps : List Pixel) (s : State) : Result :=
  if s.enc.phase = .body then .refused .bufferWriteDuringBody
  else .next (noAnswer { s with enc := { s.enc with pix := ps } })

/-- ENC.OUT, in DONE only (R33, R101, R158). -/
def readEncOut (s : State) : Result :=
  if s.enc.phase = .done then .next (answer (.bytes s.enc.out) s) else .refused .resultNotAvailable

/-- DEC.OUT, in DONE only (R34, R128, R158). -/
def readDecOut (s : State) : Result :=
  if s.dec.phase = .done then .next (answer (.pixels s.dec.out) s) else .refused .resultNotAvailable

/-- The decoded Image (R128). -/
def decodedImage (d : Decoder) : Image := ⟨d.width, d.height, d.channels, d.colorspace, d.out⟩

/-- The decoded Image, in DONE only (R128, R158). -/
def readDecImage (s : State) : Result :=
  if s.dec.phase = .done then .next (answer (.image (decodedImage s.dec)) s) else .refused .resultNotAvailable

/-- One host request. -/
def serve (r : Request) (s : State) : Result :=
  match r with
  | .readReg n => readReg n s
  | .writeReg n v => writeReg n v s
  | .loadStream bs => loadStream bs s
  | .loadPixels ps => loadPixels ps s
  | .readEncOut => readEncOut s
  | .readDecOut => readDecOut s
  | .readDecImage => readDecImage s
  | .imageFromRaw raw w h ch cs => imageFromRaw raw w h ch cs s
  | .imageFromPixels ps w h ch cs => imageFromPixels ps w h ch cs s
  | .imageToBytes i => imageToBytes i s

end Sys2Proof.Machine
end

