-- ==== Sys2Proof/Machine/Sequencer.lean ====
section
/-! DEFINITION. Which agent moves at a step, and placing an instruction where the next step runs it (spec 10_state.md R10,
20_memory.md R42, 70_reset_and_hazards.md R177; log 1, log 11). -/

namespace Sys2Proof.Machine

/-- One move of one agent. -/
def takeTurn (t : Turn) (s : State) : Result :=
  match t with
  | .host r => serve r s
  | .encoder => encoderStep s
  | .decoder => decoderStep s

/-- With an empty agenda: a running decoder goes on, else a running encoder, else the block waits for the host
(DESIGN CHOICE, log 1). -/
def idleTurn (s : State) : Result :=
  if s.dec.phase = .body then decoderStep s else encoderStep s

/-- The move at the head of the agenda, which is thereby used up; with an empty agenda, `idleTurn`. -/
def move (s : State) : Result :=
  match s.agenda with
  | t :: rest => takeTurn t { s with agenda := rest }
  | [] => idleTurn s

/-! ## Placing an instruction -/

/-- A chunk: PHASE = BODY, DEC.POS at the body's first offset, DEC.END after the bytes, the bytes in place, and the
decoder's turn. Header and end marker are not read by the chunk's step and are not placed. -/
def placeChunk (bs : List Byte) (s : State) : State :=
  { s with
    agenda := .decoder :: s.agenda
    dec :=
      { s.dec with
        phase := .body
        pos := Config.headerLength
        limit := Config.headerLength + bs.length
        inLen := Config.headerLength + bs.length + Config.endLength
        inp := s.dec.inp.writeBytes Config.headerLength bs } }

/-- A framing unit is run by START: the whole stream in place, its length, PHASE not BODY, and the host's write of
DEC_CTRL.START next. -/
def placeStream (bs : List Byte) (s : State) : State :=
  { s with
    agenda := .host (.writeReg 8 1) :: s.agenda
    dec :=
      { s.dec with
        phase := if s.dec.phase = .body then .idle else s.dec.phase
        inLen := bs.length
        inp := s.dec.inp.writeBytes 0 bs } }

/-- A word of the opcode table placed where the next step fetches it: a chunk in the body, a header before an end marker,
an end marker after the header of an empty image. -/
def placeWord (s : State) (nbits w : Nat) : State :=
  let bs := wordBytes (tableBytes nbits) (w % 2 ^ nbits)
  match tablePlace nbits with
  | .head => placeStream (bs ++ Config.endMarker) s
  | .body => placeChunk bs s
  | .tail => placeStream (encode (.header 0 0 4 0) ++ bs) s

end Sys2Proof.Machine
end

