-- ==== Sys2Proof/Machine/Reference.lean ====
section
/-! DEFINITION. The two operations as pure functions over lists, as the spec composes them for reference (42_encoder.md
R102, 43_decoder.md R129). They share the formats, the classifier and the pixel arithmetic with the engines, and no
state: the engines' step rules are not used here. -/

namespace Sys2Proof.Machine

/-! ## encode (R102) -/

/-- The loop of R102 and the flush after it: what is still to be written for the pixels left. -/
def encodeLoop (tie : DiffTie) : List Pixel → Pixel → Cache → Nat → List Byte
  | [], _, _, run => flushRun run
  | cur :: rest, prev, cache, run =>
    match classify tie cur prev cache with
    | .run => encodeLoop tie rest cur cache (run + 1)
    | .index k => flushRun run ++ bytesOf (.index k) ++ encodeLoop tie rest cur cache 0
    | v => flushRun run ++ bytesOf v ++ encodeLoop tie rest cur (remember cache cur) 0

/-- `encode(w, h, ch, cs, pix)` (R102). -/
def encodeImage (tie : DiffTie) (i : Image) : List Byte :=
  encode (.header i.width i.height i.channels i.colorspace)
    ++ encodeLoop tie i.pixels Pixel.start Cache.zero 0
    ++ encode .endMark

/-! ## decode (R129) -/

/-- What a decode ends in. -/
inductive Decoded where
  | image (i : Image)
  | fault (k : FaultKind) (c : Cause)
  | refused (r : Refusal)
  deriving DecidableEq, Repr

/-- The pixels of a chunk, from `prev` and `cache` (R118 to R123). -/
def chunkPixels (prev : Pixel) (cache : Cache) : Instr → List Pixel
  | .rgb r g b => [⟨r, g, b, prev.a⟩]
  | .rgba r g b a => [⟨r, g, b, a⟩]
  | .diff dr dg db => [addDeltas prev dr dg db]
  | .index k => [slot cache k]
  | .luma dg drDg dbDg => [addDeltas prev (drDg + dg) dg (dbDg + dg)]
  | .run n => List.replicate n prev
  | .header _ _ _ _ => []
  | .endMark => []

/-- The last of some pixels, or the one before them. -/
def lastPixel (prev : Pixel) (ps : List Pixel) : Pixel := ps.getLastD prev

/-- The loop of R129 on the bytes of the body that are left: the pixels produced, or the fault. -/
def decodeLoop : Nat → List Byte → Pixel → Cache → Except Cause (List Pixel)
  | _, [], _, _ => .ok []
  | 0, _ :: _, _, _ => .ok []
  | fuel + 1, bs, prev, cache =>
    match decodeChunk bs with
    | .error .malformedTag => .error .malformedTag
    | .error _ => .error .truncatedChunk
    | .ok (i, rest) =>
      let ps := chunkPixels prev cache i
      match decodeLoop fuel rest (lastPixel prev ps) (ps.foldl remember cache) with
      | .error c => .error c
      | .ok qs => .ok (ps ++ qs)

/-- The body and the count (R129): every chunk is at least one byte, so the body's length is fuel enough. -/
def decodeBody (width height : Word) (channels colorspace : Byte) (body : List Byte) : Decoded :=
  match decodeLoop body.length body Pixel.start Cache.zero with
  | .error c => .fault .decodeError c
  | .ok ps =>
    if ps.length ≠ area width height then .fault .pixelCountMismatch .none
    else .image ⟨width, height, channels, colorspace, ps⟩

/-- The end marker and the body (R129). -/
def decodeAfterHeader (width height : Word) (channels colorspace : Byte) (s : List Byte) : Decoded :=
  if s.drop (s.length - Config.endLength) ≠ Config.endMarker then .fault .decodeError .endMarker
  else decodeBody width height channels colorspace ((s.take (s.length - Config.endLength)).drop Config.headerLength)

/-- Check 3 (R150, R159): what a header's fields lead to before the end marker is looked at. -/
def decodeFields (cfg : Config) (width height : Word) (channels colorspace : Byte) : Option Decoded :=
  let large := if Config.exceeds cfg.maxPixels (area width height) then some (.refused .tooManyPixels) else none
  if legalFormat channels colorspace then large
  else
    match cfg.badFmtPolicy with
    | .refuse => some (.refused .headerFormat)
    | .headerError => some (.fault .headerError .none)
    | .pass => large

/-- `decode(s)` (R129), with the checks of R112 in their order. -/
def decodeStream (cfg : Config) (s : List Byte) : Decoded :=
  if Config.exceeds cfg.maxStream s.length then .refused .streamTooLong
  else if s.length < 4 ∨ s.take 4 ≠ Config.magic then .fault .headerError .none
  else if s.length < Config.headerLength + Config.endLength then .fault .decodeError .endMarker
  else
    match decodeHeader s with
    | .ok (.header w h ch cs, _) =>
      match decodeFields cfg w h ch cs with
      | some d => d
      | none => decodeAfterHeader w h ch cs s
    | _ => .fault .headerError .none

end Sys2Proof.Machine
end

