-- ==== Sys2Proof/Safety.lean ====
section
/-! DEFINITION. The terms statements are made in: frames, a stream that is in place, and the invariants of the block. -/

namespace Sys2Proof.Machine

/-! ## Frames -/

/-- Everything outside the decoder engine is unchanged. -/
structure SameOutsideDecoder (s t : State) : Prop where
  cfg      : t.cfg = s.cfg
  enc      : t.enc = s.enc
  imgFault : t.imgFault = s.imgFault
  agenda   : t.agenda = s.agenda
  reply    : t.reply = s.reply
  draws    : t.draws = s.draws

/-- Everything outside the encoder engine is unchanged. -/
structure SameOutsideEncoder (s t : State) : Prop where
  cfg      : t.cfg = s.cfg
  dec      : t.dec = s.dec
  imgFault : t.imgFault = s.imgFault
  agenda   : t.agenda = s.agenda
  reply    : t.reply = s.reply
  draws    : t.draws = s.draws

/-- Every byte of the input stream reads as before, and its length register is unchanged. -/
structure SameStream (s t : State) : Prop where
  bytes : ∀ a, t.dec.inp.read a = s.dec.inp.read a
  inLen : t.dec.inLen = s.dec.inLen

/-- The decoder's header registers are unchanged. -/
structure SameHeader (s t : State) : Prop where
  width      : t.dec.width = s.dec.width
  height     : t.dec.height = s.dec.height
  channels   : t.dec.channels = s.dec.channels
  colorspace : t.dec.colorspace = s.dec.colorspace

/-- The decoder's phase, fault registers and scan limit are unchanged. -/
structure SameControl (s t : State) : Prop where
  phase : t.dec.phase = s.dec.phase
  fault : t.dec.fault = s.dec.fault
  cause : t.dec.cause = s.dec.cause
  limit : t.dec.limit = s.dec.limit

/-- The decoder's running state and output are unchanged. -/
structure SameScan (s t : State) : Prop where
  prev  : t.dec.prev = s.dec.prev
  cache : t.dec.cache = s.dec.cache
  pos   : t.dec.pos = s.dec.pos
  npix  : t.dec.npix = s.dec.npix
  out   : t.dec.out = s.dec.out

/-- What no chunk touches: all of it but PREV, CACHE, POS, NPIX and OUT (R116, R39). -/
structure ChunkFrame (s t : State) : Prop where
  outside : SameOutsideDecoder s t
  stream  : SameStream s t
  header  : SameHeader s t
  control : SameControl s t

/-- What a chunk does: `n` copies of `p` produced, of which the last is remembered, and DEC.POS moved by the chunk's
length (R114, R116). -/
structure Produced (p : Pixel) (n length : Nat) (s t : State) : Prop where
  out    : t.dec.out = s.dec.out ++ List.replicate n p
  npix   : t.dec.npix = s.dec.npix + n
  prev   : t.dec.prev = p
  hit    : slot t.dec.cache (pixelHash p) = p
  others : ∀ k, k ≠ pixelHash p → slot t.dec.cache k = slot s.dec.cache k
  pos    : t.dec.pos = s.dec.pos + length

/-! ## A stream in place, a turn, an outcome -/

/-- The host's duty of R168: the stream is in place as DEC.IN and DEC_INLEN holds its length. -/
structure StreamIs (s : State) (bs : List Byte) : Prop where
  length : s.dec.inLen = bs.length
  bytes  : ∀ k b, bs[k]? = some b → s.dec.inp.read k = some b

/-- Every byte below DEC_INLEN is in place. -/
def StreamInPlace (s : State) : Prop := ∀ a, a < s.dec.inLen → (s.dec.inp.read a).isSome

/-- The decoder moves at the next step: its turn heads the agenda, or the agenda is empty and it is in BODY. -/
def decoderMoves (s : State) : Bool :=
  match s.agenda with
  | .decoder :: _ => true
  | _ :: _ => false
  | [] => s.dec.phase == .body

/-- The state with the head of the agenda used up. -/
def popTurn (s : State) : State := { s with agenda := s.agenda.tail }

/-- A chunk whose first byte is `t` and whose length is `length`, met where it would pass DEC.END, raises DecodeError with
cause TRUNCATED_CHUNK instead (R114, R124). -/
def CutShort (t : Byte) (length : Nat) : Prop :=
  ∀ s : State, decoderMoves s = true → s.dec.phase = .body → s.dec.pos < s.dec.limit → s.dec.limit ≤ s.dec.inLen →
    s.dec.inp.read s.dec.pos = some t → s.dec.limit < s.dec.pos + length →
    step s = .next (raiseDec .decodeError .truncatedChunk (popTurn s))

/-- An outcome with a function applied to its next state. -/
def mapNext (f : State → State) : Result → Result
  | .next s => .next (f s)
  | .fault r => .fault r
  | .refused r => .refused r

/-! ## Invariants -/

/-- Every slot holds the initial pixel or a pixel of its own hash (R14, R171). -/
def CacheHashed (cache : Cache) : Prop := ∀ k, slot cache k = Pixel.zero ∨ pixelHash (slot cache k) = k

/-- The previous pixel is the initial one or is remembered in its slot (R171). -/
def PrevSeen (prev : Pixel) (cache : Cache) : Prop := prev = Pixel.start ∨ slot cache (pixelHash prev) = prev

/-- What holds of the decoder between steps (R14, R16, R19, R21, R25, R26, R146). -/
structure DecoderInv (d : Decoder) : Prop where
  stream : d.inp.wf
  count  : d.npix = d.out.length
  hashed : CacheHashed d.cache
  seen   : PrevSeen d.prev d.cache
  failed : d.phase = .fault ↔ d.fault ≠ .none
  cause  : d.cause ≠ .none ↔ d.fault = .decodeError
  kind   : d.fault ≠ .malformedLength ∧ d.cause ≠ .malformedTag
  start  : d.phase = .body → Config.headerLength ≤ d.pos
  within : d.phase = .body → d.pos ≤ d.limit
  marker : d.phase = .body → d.limit + Config.endLength = d.inLen

/-- What holds of the encoder between steps (R14, R17, R20, R25, R91, R149). -/
structure EncoderInv (e : Encoder) : Prop where
  phase  : e.phase ≠ .fault
  hashed : CacheHashed e.cache
  seen   : PrevSeen e.prev e.cache
  format : e.phase = .body → legalFormat e.channels e.colorspace = true
  pixels : e.phase = .body → e.pix.length = area e.width e.height
  index  : e.phase = .body → e.idx ≤ area e.width e.height
  run    : e.phase = .body → e.run ≤ e.idx
  done   : e.phase = .done → e.idx = area e.width e.height ∧ e.run = 0

/-- The invariant of the block. -/
structure Inv (s : State) : Prop where
  dec : DecoderInv s.dec
  enc : EncoderInv s.enc

/-- The bounds on output sizes while an operation runs and after it: every chunk is one to five bytes and one to 62
pixels (R98, R131). -/
structure SizeInv (s : State) : Prop where
  scanBytes : s.dec.phase = .body → s.dec.pos ≤ Config.headerLength + 5 * s.dec.npix
  scanCount : s.dec.phase = .body → s.dec.npix + 62 * Config.headerLength ≤ 62 * s.dec.pos
  bodyRun   : s.enc.phase = .body → s.enc.run ≤ s.enc.idx
  bodyMost  : s.enc.phase = .body → s.enc.out.length + 5 * s.enc.run ≤ 14 + 5 * s.enc.idx
  bodyLeast : s.enc.phase = .body → s.enc.idx + 62 * 14 ≤ 62 * s.enc.out.length + s.enc.run
  doneMost  : s.enc.phase = .done → s.enc.out.length ≤ 22 + 5 * area s.enc.width s.enc.height
  doneLeast : s.enc.phase = .done → area s.enc.width s.enc.height + 62 * 22 ≤ 62 * s.enc.out.length

end Sys2Proof.Machine
end

