-- ==== Sys2Proof/Certificates/Slice0/Obligations.lean ====
section
/-! DEFINITION. What the model claims, stated for the provers; each statement's docstring names the rules of the spec it
rests on. -/

open Sys2Proof Sys2Proof.Machine

/-! ## Pixel arithmetic -/

/-- R70: `sdiff8` by its two unsigned forms, by its closed form, its range, and the default of DIFF_TIE. With it R71's
channel-by-channel `difference`. -/
def Obligations.DifferenceIsSmallestRepresentative : Prop :=
  Config.default.diffTie.value = 128 ∧
  ∀ (tie : DiffTie) (x y : Byte),
    (((x.toNat - y.toNat : Int) % 256 < (y.toNat - x.toNat : Int) % 256 →
        sdiff8 tie x y = (x.toNat - y.toNat : Int) % 256) ∧
      ((y.toNat - x.toNat : Int) % 256 < (x.toNat - y.toNat : Int) % 256 →
        sdiff8 tie x y = -((y.toNat - x.toNat : Int) % 256)) ∧
      ((x.toNat - y.toNat : Int) % 256 = 128 → sdiff8 tie x y = tie.value) ∧
      (x = y → sdiff8 tie x y = 0)) ∧
    (((x.toNat - y.toNat : Int) % 256 ≤ 127 → sdiff8 tie x y = (x.toNat - y.toNat : Int) % 256) ∧
      (129 ≤ (x.toNat - y.toNat : Int) % 256 → sdiff8 tie x y = (x.toNat - y.toNat : Int) % 256 - 256)) ∧
    ((-127 ≤ sdiff8 tie x y ∧ sdiff8 tie x y ≤ 127) ∨ sdiff8 tie x y = tie.value) ∧
    ∀ p q : Pixel, difference tie p q =
      (sdiff8 tie p.r q.r, sdiff8 tie p.g q.g, sdiff8 tie p.b q.b, sdiff8 tie p.a q.a)

/-- R72, all four laws: congruence, inverse of the wrapping addition, antisymmetry with its exception, and that no
classifier result depends on DIFF_TIE. -/
def Obligations.DifferenceLaws : Prop :=
  (∀ (tie : DiffTie) (x y : Byte), (sdiff8 tie x y - (x.toNat - y.toNat)) % 256 = 0) ∧
  (∀ (tie : DiffTie) (x y : Byte), add8 y (sdiff8 tie x y) = x) ∧
  (∀ (tie : DiffTie) (x y : Byte),
    ((x.toNat - y.toNat : Int) % 256 ≠ 128 → sdiff8 tie x y = -sdiff8 tie y x) ∧
    ((x.toNat - y.toNat : Int) % 256 = 128 →
      sdiff8 tie x y = tie.value ∧ sdiff8 tie y x = tie.value ∧ tie.value ≠ -tie.value)) ∧
  (∀ (tie tie' : DiffTie) (cur prev : Pixel) (cache : Cache), classify tie cur prev cache = classify tie' cur prev cache)

/-- R73: the hash, its bounds, that reducing early to eight bits is exact, the values R73 lists, and that it is not
injective. -/
def Obligations.HashIsWeightedSumModulo64 : Prop :=
  (∀ p : Pixel,
    (pixelHash p).val = (p.r.toNat * 3 + p.g.toNat * 5 + p.b.toNat * 7 + p.a.toNat * 11) % 64 ∧
    p.r.toNat * 3 + p.g.toNat * 5 + p.b.toNat * 7 + p.a.toNat * 11 ≤ 6630 ∧
    (pixelHash p).val = (p.r * 3 + p.g * 5 + p.b * 7 + p.a * 11).toNat % 64) ∧
  pixelHash ⟨0, 0, 0, 0⟩ = 0 ∧ pixelHash ⟨0, 0, 0, 255⟩ = 53 ∧ pixelHash ⟨255, 255, 255, 255⟩ = 38 ∧ pixelHash ⟨10, 10, 10, 255⟩ = 11 ∧
  pixelHash ⟨64, 0, 0, 0⟩ = 0

/-- R74 and R75: the two equalities. -/
def Obligations.EqualitiesCompareChannels : Prop :=
  ∀ p q : Pixel,
    (eq4 p q = true ↔ p.r = q.r ∧ p.g = q.g ∧ p.b = q.b ∧ p.a = q.a) ∧
    (eq3 p q = true ↔ p.r = q.r ∧ p.g = q.g ∧ p.b = q.b)

/-- R76: the wrapping addition and its laws. -/
def Obligations.WrappingAdditionLaws : Prop :=
  ∀ (x : Byte) (d e : Int),
    ((add8 x d).toNat : Int) = (x.toNat + d) % 256 ∧
    add8 x 0 = x ∧ add8 (add8 x d) e = add8 x (d + e) ∧ add8 x d = add8 x (d + 256)

/-! ## Encoding -/

/-- Decode after encode, for every well-formed unit and whatever follows it: no bit of an operand is lost, and every
chunk is self-delimiting (R45, R57). -/
def Obligations.DecodeInvertsEncode : Prop :=
  ∀ (i : Instr) (rest : List Byte), i.wellFormed = true → decode i.place (encode i ++ rest) = .ok (i, rest)

/-- Encode after decode: whatever bytes the decoder accepts as a unit are that unit's only encoding, of the unit's
length, and every accepted chunk has its operands in range (R57, R58). -/
def Obligations.EncodeInvertsDecode : Prop :=
  ∀ (place : Place) (bs rest : List Byte) (i : Instr), decode place bs = .ok (i, rest) →
    i.place = place ∧ bs = encode i ++ rest ∧ (encode i).length = i.length ∧ (place = .body → i.wellFormed = true)

/-- R56, the resulting partition: what each of the 256 first bytes starts, and the chunk's length (R48). -/
def Obligations.FirstBytePartition : Prop :=
  ∀ t : Byte,
    (rowOf t).map (fun row => (row.kind, row.length)) =
      if t = 0xFE then some (.rgb, 4)
      else if t = 0xFF then some (.rgba, 5)
      else if t.toNat < 64 then some (.index, 1)
      else if t.toNat < 128 then some (.diff, 1)
      else if t.toNat < 192 then some (.luma, 2)
      else some (.run, 1)

/-- Words written out from the formats (R46, R47, R50 to R55) decode to the units they stand for; a wrong magic, a wrong
marker and a chunk cut short are rejected by name. -/
def Obligations.SpecWordsDecode : Prop :=
  decode .body [0xFE, 0x64, 0x00, 0x01] = .ok (.rgb 100 0 1, []) ∧
  decode .body [0xFF, 0x01, 0x02, 0x03, 0x04] = .ok (.rgba 1 2 3 4, []) ∧
  decode .body [0x76] = .ok (.diff 1 (-1) 0, []) ∧
  decode .body [0x0B] = .ok (.index 11, []) ∧
  decode .body [0xA8, 0x95] = .ok (.luma 8 1 (-3), []) ∧
  decode .body [0xC5] = .ok (.run 6, []) ∧
  decode .head [0x71, 0x6F, 0x69, 0x66, 0, 0, 0, 2, 0, 0, 1, 3, 4, 1] = .ok (.header 2 259 4 1, []) ∧
  decode .tail [0, 0, 0, 0, 0, 0, 0, 1] = .ok (.endMark, []) ∧
  decode .head [0x71, 0x6F, 0x69, 0x67, 0, 0, 0, 2, 0, 0, 1, 3, 4, 1] = .error .badMagic ∧
  decode .tail [0, 0, 0, 0, 0, 0, 0, 0] = .error .badEndMarker ∧
  decode .body [0xFE, 0x64, 0x00] = .error .truncatedChunk

/-- R35 and R46: the header's layout, width and height most significant byte first. -/
def Obligations.HeaderIsBigEndian : Prop :=
  ∀ (w h : Word) (ch cs : Byte),
    encode (.header w h ch cs) =
      [0x71, 0x6F, 0x69, 0x66, w.extractLsb' 24 8, w.extractLsb' 16 8, w.extractLsb' 8 8, w.extractLsb' 0 8,
        h.extractLsb' 24 8, h.extractLsb' 16 8, h.extractLsb' 8 8, h.extractLsb' 0 8, ch, cs]

/-- R148: no byte reaches the malformed-tag arm, so no step of the machine sets that cause. -/
def Obligations.MalformedTagIsUnreachable : Prop :=
  (∀ t : Byte, rowOf t ≠ none) ∧ (∀ d : Decoder, fetch d ≠ .malformed) ∧
  ∀ s t : State, step s = .next t → t.dec.cause = .malformedTag → s.dec.cause = .malformedTag

/-! ## Stream memory -/

/-- R32: MemRead up to DEC_INLEN answers the bytes in place, in stream order. R32 defines it nowhere else: that the machine
then stops, with outsideStream past DEC_INLEN and with unwrittenByte where the host put no byte, is the model's choice
(log 6). -/
def Obligations.StreamReadIsBounded : Prop :=
  ∀ (d : Decoder) (addr n : Nat),
    (d.inLen < addr + n → memRead d addr n = .error .outsideStream) ∧
    (addr + n ≤ d.inLen → ∀ bs : List Byte, bs.length = n →
      (∀ k b, bs[k]? = some b → d.inp.read (addr + k) = some b) → memRead d addr n = .ok bs) ∧
    (addr + n ≤ d.inLen → ∀ k, k < n → d.inp.read (addr + k) = none → memRead d addr n = .error .unwrittenByte)

/-! ## The six chunks

Each says: how the chunk's bytes decode, that exec answers a next state whatever the state, what that state holds, that
nothing else changes, and, for the three kinds that can be cut short by DEC.END, that a step then faults instead. -/

/-- R118: RGB. -/
def Obligations.RgbChunkEffect : Prop :=
  (∀ (r g b : Byte) (rest : List Byte), decode .body (0xFE :: r :: g :: b :: rest) = .ok (.rgb r g b, rest)) ∧
  (∀ (r g b : Byte) (s : State), ∃ t, exec (.rgb r g b) s = .next t ∧
    Produced ⟨r, g, b, s.dec.prev.a⟩ 1 4 s t ∧ ChunkFrame s t) ∧
  CutShort 0xFE 4

/-- R119: RGBA. -/
def Obligations.RgbaChunkEffect : Prop :=
  (∀ (r g b a : Byte) (rest : List Byte),
    decode .body (0xFF :: r :: g :: b :: a :: rest) = .ok (.rgba r g b a, rest)) ∧
  (∀ (r g b a : Byte) (s : State), ∃ t, exec (.rgba r g b a) s = .next t ∧
    Produced ⟨r, g, b, a⟩ 1 5 s t ∧ ChunkFrame s t) ∧
  CutShort 0xFF 5

/-- R120: DIFF. The added deltas wrap modulo 256, alpha is kept. -/
def Obligations.DiffChunkEffect : Prop :=
  (∀ (t : Byte) (rest : List Byte), t.extractLsb' 6 2 = 0b01#2 →
    decode .body (t :: rest) =
      .ok (.diff ((t.extractLsb' 4 2).toNat - 2) ((t.extractLsb' 2 2).toNat - 2) ((t.extractLsb' 0 2).toNat - 2), rest)) ∧
  ∀ (dr dg db : Int) (s : State), ∃ p t, exec (.diff dr dg db) s = .next t ∧
    (p.r.toNat : Int) = (s.dec.prev.r.toNat + dr) % 256 ∧ (p.g.toNat : Int) = (s.dec.prev.g.toNat + dg) % 256 ∧
    (p.b.toNat : Int) = (s.dec.prev.b.toNat + db) % 256 ∧ p.a = s.dec.prev.a ∧
    Produced p 1 1 s t ∧ ChunkFrame s t

/-- R121: INDEX. The slot read is the stored index verbatim, the slot written is the pixel's hash. -/
def Obligations.IndexChunkEffect : Prop :=
  (∀ (idx : Fin 64) (rest : List Byte), decode .body (BitVec.ofNat 8 idx.val :: rest) = .ok (.index idx, rest)) ∧
  ∀ (idx : Fin 64) (s : State), ∃ t, exec (.index idx) s = .next t ∧
    Produced (slot s.dec.cache idx) 1 1 s t ∧ ChunkFrame s t

/-- R122: LUMA. dr and db are rebuilt from dg and the two differences, then added as for DIFF. -/
def Obligations.LumaChunkEffect : Prop :=
  (∀ (t u : Byte) (rest : List Byte), t.extractLsb' 6 2 = 0b10#2 →
    decode .body (t :: u :: rest) =
      .ok (.luma ((t.extractLsb' 0 6).toNat - 32) ((u.extractLsb' 4 4).toNat - 8) ((u.extractLsb' 0 4).toNat - 8), rest)) ∧
  (∀ (dg drDg dbDg : Int) (s : State), ∃ p t, exec (.luma dg drDg dbDg) s = .next t ∧
    (p.r.toNat : Int) = (s.dec.prev.r.toNat + (drDg + dg)) % 256 ∧ (p.g.toNat : Int) = (s.dec.prev.g.toNat + dg) % 256 ∧
    (p.b.toNat : Int) = (s.dec.prev.b.toNat + (dbDg + dg)) % 256 ∧ p.a = s.dec.prev.a ∧
    Produced p 1 2 s t ∧ ChunkFrame s t) ∧
  ∀ t : Byte, t.extractLsb' 6 2 = 0b10#2 → CutShort t 2

/-- R123: RUN. n copies of the previous pixel, which keeps its value and is written to its slot. -/
def Obligations.RunChunkEffect : Prop :=
  (∀ (n : Nat) (rest : List Byte), 1 ≤ n → n ≤ 62 →
    decode .body (BitVec.ofNat 8 (0xC0 + (n - 1)) :: rest) = .ok (.run n, rest)) ∧
  ∀ (n : Nat) (s : State), (Instr.run n).wellFormed = true → ∃ t, exec (.run n) s = .next t ∧
    Produced s.dec.prev n 1 s t ∧ ChunkFrame s t

/-! ## The framing units -/

/-- R112 check 3 on legal fields: HEADER latches the four fields and touches nothing else, whatever the policy, when
width×height is within MAX_PIXELS. -/
def Obligations.HeaderLatchesFields : Prop :=
  ∀ (w h : Word) (ch cs : Byte) (s : State), (Instr.header w h ch cs).wellFormed = true →
    (∀ m, s.cfg.maxPixels = some m → w.toNat * h.toNat ≤ m) →
    ∃ t, exec (.header w h ch cs) s = .next t ∧
      t.dec.width = w ∧ t.dec.height = h ∧ t.dec.channels = ch ∧ t.dec.colorspace = cs ∧
      SameOutsideDecoder s t ∧ SameStream s t ∧ SameControl s t ∧ SameScan s t

/-- R150: CHANNELS or COLORSPACE out of range, under each value of BAD_FMT_POLICY (default `refuse`): refused, raised as
HeaderError, or passed through with the byte kept. Under `pass` no chunk decision depends on the two bytes: a chunk run
after them does what it does after any others. The clauses for `refuse` and HeaderError ask nothing of the size: that
the policy comes before MAX_PIXELS is the model's choice (log 8), and that POS and NPIX keep their values after HeaderError
is too (log 5; R147 leaves them unspecified). -/
def Obligations.HeaderFormatPolicy : Prop :=
  Config.default.badFmtPolicy = .refuse ∧
  (∀ (w h : Word) (ch cs : Byte) (s : State), ¬ ((ch = 3 ∨ ch = 4) ∧ (cs = 0 ∨ cs = 1)) →
    (s.cfg.badFmtPolicy = .refuse → exec (.header w h ch cs) s = .refused .headerFormat) ∧
    (s.cfg.badFmtPolicy = .headerError → ∃ t, exec (.header w h ch cs) s = .next t ∧
      t.dec.phase = .fault ∧ t.dec.fault = .headerError ∧ t.dec.cause = .none ∧
      SameOutsideDecoder s t ∧ SameStream s t ∧ SameScan s t ∧ t.dec.limit = s.dec.limit) ∧
    (s.cfg.badFmtPolicy = .pass → (∀ m, s.cfg.maxPixels = some m → w.toNat * h.toNat ≤ m) →
      ∃ t, exec (.header w h ch cs) s = .next t ∧
        t.dec.width = w ∧ t.dec.height = h ∧ t.dec.channels = ch ∧ t.dec.colorspace = cs ∧
        SameOutsideDecoder s t ∧ SameStream s t ∧ SameControl s t ∧ SameScan s t)) ∧
  ∀ (i : Instr) (s : State) (ch cs : Byte), i.place = .body →
    exec i (latchHeader s.dec.width s.dec.height ch cs s) =
      mapNext (fun t => latchHeader t.dec.width t.dec.height ch cs t) (exec i s)

/-- R159: width×height above MAX_PIXELS is refused, in a decoded header that R150 lets through and at encoder START; when
the parameter is not set, no size is refused for it. That R150 comes before R159 is the model's choice (log 8). -/
def Obligations.OversizeImagesAreRefused : Prop :=
  (∀ (w h : Word) (ch cs : Byte) (s : State) (m : Nat), s.cfg.maxPixels = some m → m < w.toNat * h.toNat →
    ((Instr.header w h ch cs).wellFormed = true ∨ s.cfg.badFmtPolicy = .pass) →
    exec (.header w h ch cs) s = .refused .tooManyPixels) ∧
  (∀ (s : State) (m : Nat), s.cfg.maxPixels = some m → m < s.enc.widthReg.toNat * s.enc.heightReg.toNat →
    s.enc.phase ≠ .body → legalFormat (fmtChannels s.enc.fmtReg) (fmtColorspace s.enc.fmtReg) = true →
    s.enc.pix.length = s.enc.widthReg.toNat * s.enc.heightReg.toNat →
    serve (.writeReg 0 1) s = .refused .tooManyPixels) ∧
  State.reset.cfg.maxPixels = none ∧
  ∀ s : State, s.cfg.maxPixels = none →
    (∀ (w h : Word) (ch cs : Byte), exec (.header w h ch cs) s ≠ .refused .tooManyPixels) ∧
    serve (.writeReg 0 1) s ≠ .refused .tooManyPixels

/-- END initialises the running state as R113 says and starts the scan; header registers, stream and everything outside the
decoder are unchanged. R113 gives the initialisation to the START step: that it is the meaning of the unit END, which that
step runs last, is the model's reading (log 7). -/
def Obligations.EndBeginsScan : Prop :=
  ∀ s : State, ∃ t, exec .endMark s = .next t ∧
    t.dec.limit = s.dec.inLen - 8 ∧ t.dec.pos = 14 ∧ t.dec.prev = ⟨0, 0, 0, 255⟩ ∧
    (∀ k, slot t.dec.cache k = ⟨0, 0, 0, 0⟩) ∧ t.dec.npix = 0 ∧ t.dec.out = [] ∧ t.dec.phase = .body ∧
    t.dec.fault = s.dec.fault ∧ t.dec.cause = s.dec.cause ∧
    SameOutsideDecoder s t ∧ SameStream s t ∧ SameHeader s t

/-! ## The decoder engine -/

/-- A step runs the decoded instruction: the decoder's turn, BODY, before DEC.END, the bytes at DEC.POS those of a
well-formed chunk that fits: the step is exec of it, on the state with its turn used up (R114). -/
def Obligations.StepRunsDecodedChunk : Prop :=
  ∀ (s : State) (i : Instr), decoderMoves s = true → s.dec.phase = .body → i.place = .body → i.wellFormed = true →
    s.dec.pos + i.length ≤ s.dec.limit → s.dec.limit ≤ s.dec.inLen →
    (∀ k b, (encode i)[k]? = some b → s.dec.inp.read (s.dec.pos + k) = some b) →
    step s = exec i (popTurn s)

/-- R124: a chunk that would pass DEC.END raises DecodeError with cause TRUNCATED_CHUNK and nothing of it happens; only
RGB, RGBA and LUMA can be truncated. -/
def Obligations.TruncatedChunkFaults : Prop :=
  (∀ (s : State) (t : Byte) (row : ChunkRow), decoderMoves s = true → s.dec.phase = .body → s.dec.pos < s.dec.limit →
    s.dec.limit ≤ s.dec.inLen → s.dec.inp.read s.dec.pos = some t → rowOf t = some row →
    s.dec.limit < s.dec.pos + row.length →
    step s = .next (raiseDec .decodeError .truncatedChunk (popTurn s)) ∧
    (row.kind = .rgb ∧ row.length = 4 ∨ row.kind = .rgba ∧ row.length = 5 ∨ row.kind = .luma ∧ row.length = 2)) ∧
  ∀ (k : FaultKind) (c : Cause) (s : State),
    (raiseDec k c s).dec.fault = k ∧ (raiseDec k c s).dec.cause = c ∧ (raiseDec k c s).dec.phase = .fault ∧
    SameScan s (raiseDec k c s)

/-- R127: FINISH compares the produced count with the exact product of the two 32-bit fields; a mismatch raises
PixelCountMismatch, a match ends the operation in DONE; nothing else changes. -/
def Obligations.FinishComparesExactCount : Prop :=
  ∀ s : State, decoderMoves s = true → s.dec.phase = .body → s.dec.pos = s.dec.limit →
    ∃ t, step s = .next t ∧
      (s.dec.npix ≠ s.dec.width.toNat * s.dec.height.toNat →
        t.dec.phase = .fault ∧ t.dec.fault = .pixelCountMismatch ∧ t.dec.cause = .none) ∧
      (s.dec.npix = s.dec.width.toNat * s.dec.height.toNat →
        t.dec.phase = .done ∧ t.dec.fault = s.dec.fault ∧ t.dec.cause = s.dec.cause) ∧
      SameOutsideDecoder (popTurn s) t ∧ SameStream s t ∧ SameHeader s t ∧ SameScan s t ∧ t.dec.limit = s.dec.limit

/-- R112 and R151: START's checks in their order, on a stream in place: magic, room, and, behind a legal header within
MAX_PIXELS, the end marker. Each that fails ends the step in FAULT with its kind and cause. That the scan's registers keep
their values is the model's choice for DEC.POS and DEC.NPIX, which R147 calls unspecified after these faults (log 5). -/
def Obligations.StartChecksInOrder : Prop :=
  ∀ (s : State) (bs : List Byte), StreamIs s bs → s.dec.phase ≠ .body →
    (∀ m, s.cfg.maxStream = some m → bs.length ≤ m) →
    ((bs.take 4 ≠ [0x71, 0x6F, 0x69, 0x66] → ∃ t, serve (.writeReg 8 1) s = .next t ∧
        t.dec.phase = .fault ∧ t.dec.fault = .headerError ∧ t.dec.cause = .none ∧ SameScan s t ∧ SameHeader s t) ∧
      (bs.take 4 = [0x71, 0x6F, 0x69, 0x66] → bs.length < 22 → ∃ t, serve (.writeReg 8 1) s = .next t ∧
        t.dec.phase = .fault ∧ t.dec.fault = .decodeError ∧ t.dec.cause = .endMarker ∧ SameScan s t ∧
        SameHeader s t) ∧
      ∀ (w h : Word) (ch cs : Byte) (rest : List Byte), bs = encode (.header w h ch cs) ++ rest → 22 ≤ bs.length →
        (Instr.header w h ch cs).wellFormed = true → (∀ m, s.cfg.maxPixels = some m → w.toNat * h.toNat ≤ m) →
        bs.drop (bs.length - 8) ≠ [0, 0, 0, 0, 0, 0, 0, 1] →
        ∃ t, serve (.writeReg 8 1) s = .next t ∧
          t.dec.phase = .fault ∧ t.dec.fault = .decodeError ∧ t.dec.cause = .endMarker ∧ SameScan s t ∧
          t.dec.width = w ∧ t.dec.height = h ∧ t.dec.channels = ch ∧ t.dec.colorspace = cs)

/-- R111, R113, R28: START on a stream in place, with a legal header within MAX_PIXELS and the end marker, enters BODY
with the start-of-operation values, whatever the last operation left. -/
def Obligations.StartAcceptsFramedStream : Prop :=
  ∀ (s : State) (w h : Word) (ch cs : Byte) (body : List Byte),
    StreamIs s (encode (.header w h ch cs) ++ body ++ encode .endMark) → s.dec.phase ≠ .body →
    (∀ m, s.cfg.maxStream = some m → s.dec.inLen ≤ m) →
    (Instr.header w h ch cs).wellFormed = true → (∀ m, s.cfg.maxPixels = some m → w.toNat * h.toNat ≤ m) →
    ∃ t, serve (.writeReg 8 1) s = .next t ∧
      t.dec.phase = .body ∧ t.dec.fault = .none ∧ t.dec.cause = .none ∧
      t.dec.width = w ∧ t.dec.height = h ∧ t.dec.channels = ch ∧ t.dec.colorspace = cs ∧
      t.dec.pos = 14 ∧ t.dec.limit = 14 + body.length ∧ t.dec.prev = ⟨0, 0, 0, 255⟩ ∧
      (∀ k, slot t.dec.cache k = ⟨0, 0, 0, 0⟩) ∧ t.dec.npix = 0 ∧ t.dec.out = [] ∧ SameStream s t ∧ t.enc = s.enc

/-- R158, R150, R159: what decoder START refuses: in BODY, a stream longer than MAX_STREAM, and, behind a good magic and
with room for the marker, a header with an illegal format under the default policy, or a legal one above MAX_PIXELS. That
an illegal header above MAX_PIXELS is refused for its format is the model's choice (log 8), and so is that the first two come
before the checks (log 21). -/
def Obligations.DecoderStartRefusals : Prop :=
  ∀ s : State,
    (s.dec.phase = .body → serve (.writeReg 8 1) s = .refused .startDuringBody) ∧
    (s.dec.phase ≠ .body → (∃ m, s.cfg.maxStream = some m ∧ m < s.dec.inLen) →
      serve (.writeReg 8 1) s = .refused .streamTooLong) ∧
    ∀ (w h : Word) (ch cs : Byte) (rest : List Byte), StreamIs s (encode (.header w h ch cs) ++ rest) →
      8 ≤ rest.length → s.dec.phase ≠ .body → (∀ m, s.cfg.maxStream = some m → s.dec.inLen ≤ m) →
      ((Instr.header w h ch cs).wellFormed = false → s.cfg.badFmtPolicy = .refuse →
        serve (.writeReg 8 1) s = .refused .headerFormat) ∧
      ((Instr.header w h ch cs).wellFormed = true → (∃ m, s.cfg.maxPixels = some m ∧ m < w.toNat * h.toNat) →
        serve (.writeReg 8 1) s = .refused .tooManyPixels)

/-- R152: a decoder step that enters FAULT has set the code, the cause and PHASE and nothing else; in FAULT no decoder
step is enabled; a failing Image constructor sets IMG.FAULT and yields no Image. -/
def Obligations.FaultEntrySetsNothingElse : Prop :=
  (∀ s t : State, s.dec.phase = .body → decoderStep s = .next t → t.dec.phase = .fault →
    t = { s with dec := { s.dec with fault := t.dec.fault, cause := t.dec.cause, phase := .fault } } ∧
    t.dec.fault ≠ .none) ∧
  (∀ s : State, s.dec.phase = .fault → decoderStep s = .next s) ∧
  ∀ (s t : State) (raw : List Byte) (ps : List Pixel) (w h : Word) (ch cs : Byte),
    serve (.imageFromRaw raw w h ch cs) s = .next t ∨ serve (.imageFromPixels ps w h ch cs) s = .next t →
    t.imgFault ≠ .none → t = { s with imgFault := t.imgFault, reply := none }

/-- With its stream in place and the invariant, the decoder never stops: in every phase its step answers a next state
(R110, R125, R32: the rules never ask for an offset that does not exist). -/
def Obligations.DecoderNeverStops : Prop :=
  ∀ s : State, Inv s → StreamInPlace s → ∃ t, decoderStep s = .next t ∧
    (s.dec.phase = .body → s.dec.pos < t.dec.pos ∨ t.dec.phase ≠ .body)

/-! ## The classifier -/

/-- R87: the table of conditions, for every triple: exactly one kind applies, and it is the first whose test holds. -/
def Obligations.ClassifierDecisionTable : Prop :=
  ∀ (tie : DiffTie) (cur prev : Pixel) (cache : Cache),
    let dr := sdiff8 tie cur.r prev.r
    let dg := sdiff8 tie cur.g prev.g
    let db := sdiff8 tie cur.b prev.b
    let isDiff := -2 ≤ dr ∧ dr ≤ 1 ∧ -2 ≤ dg ∧ dg ≤ 1 ∧ -2 ≤ db ∧ db ≤ 1
    let isLuma := -32 ≤ dg ∧ dg ≤ 31 ∧ -8 ≤ dr - dg ∧ dr - dg ≤ 7 ∧ -8 ≤ db - dg ∧ db - dg ≤ 7
    let hit := cur = slot cache (pixelHash cur)
    (classify tie cur prev cache = .run ↔ cur = prev) ∧
    (classify tie cur prev cache = .index (pixelHash cur) ↔ cur ≠ prev ∧ hit) ∧
    (classify tie cur prev cache = .rgba cur.r cur.g cur.b cur.a ↔ cur ≠ prev ∧ ¬ hit ∧ cur.a ≠ prev.a) ∧
    (classify tie cur prev cache = .diff dr dg db ↔ cur ≠ prev ∧ ¬ hit ∧ cur.a = prev.a ∧ isDiff) ∧
    (classify tie cur prev cache = .luma dg (dr - dg) (db - dg) ↔
      cur ≠ prev ∧ ¬ hit ∧ cur.a = prev.a ∧ ¬ isDiff ∧ isLuma) ∧
    (classify tie cur prev cache = .rgb cur.r cur.g cur.b ↔
      cur ≠ prev ∧ ¬ hit ∧ cur.a = prev.a ∧ ¬ isDiff ∧ ¬ isLuma)

/-- R88: for every outcome, the decoder's rule for the chunk written reproduces the pixel from the same previous pixel
and the same slot; for Run, a RUN of any length repeats it. -/
def Obligations.ChoiceIsDecodable : Prop :=
  ∀ (tie : DiffTie) (cur : Pixel) (cache : Cache) (s : State),
    slot s.dec.cache (pixelHash cur) = slot cache (pixelHash cur) →
    (classify tie cur s.dec.prev cache = .run → ∀ n, ∃ t, exec (.run n) s = .next t ∧
      t.dec.out = s.dec.out ++ List.replicate n cur ∧ t.dec.prev = cur) ∧
    (classify tie cur s.dec.prev cache ≠ .run → ∀ rest, ∃ i t,
      decode .body (bytesOf (classify tie cur s.dec.prev cache) ++ rest) = .ok (i, rest) ∧ i.wellFormed = true ∧
      exec i s = .next t ∧ t.dec.out = s.dec.out ++ [cur] ∧ t.dec.prev = cur)

/-! ## The encoder engine -/

/-- R97: the loop of `flush_run`, its closed form and length, and that it never writes a byte RGB or RGBA would be read
from. -/
def Obligations.FlushRunSplitsBy62 : Prop :=
  flushRun 0 = [] ∧
  (∀ n, 1 ≤ n → n ≤ 62 → flushRun n = [BitVec.ofNat 8 (0xC0 + (n - 1))]) ∧
  (∀ n, 62 < n → flushRun n = 0xFD :: flushRun (n - 62)) ∧
  (∀ q r, flushRun (62 * q + r) = List.replicate q 0xFD ++ flushRun r) ∧
  ∀ n, (flushRun n).length = (n + 61) / 62 ∧ ∀ b ∈ flushRun n, b ≠ 0xFE ∧ b ≠ 0xFF

/-- What `flush_run(n)` writes is a sequence of RUN chunks of lengths 1 to 62 that add up to n (R97, R171). -/
def Obligations.FlushedRunsAddUp : Prop :=
  ∀ n, ∃ lengths : List Nat,
    flushRun n = lengths.flatMap (fun k => encode (.run k)) ∧
    (∀ k ∈ lengths, (Instr.run k).wellFormed = true) ∧ lengths.sum = n

/-- R91: an admitted encoder START latches the registers, initialises the running state, writes the 14 header bytes and
enters BODY; the image and the host's registers are unchanged, and so is everything outside the encoder but the reply,
which is cleared. A START that R91 does not admit is refused: in BODY, with an illegal format, with an image of another
pixel count, with a product above MAX_PIXELS; which of these names the refusal when several hold is the model's choice
(log 21). -/
def Obligations.EncoderStartEffect : Prop :=
  (∀ s : State, s.enc.phase ≠ .body →
    (fmtChannels s.enc.fmtReg = 3 ∨ fmtChannels s.enc.fmtReg = 4) →
    (fmtColorspace s.enc.fmtReg = 0 ∨ fmtColorspace s.enc.fmtReg = 1) →
    s.enc.pix.length = s.enc.widthReg.toNat * s.enc.heightReg.toNat →
    (∀ m, s.cfg.maxPixels = some m → s.enc.pix.length ≤ m) → (∀ m, s.cfg.maxStream = some m → 14 ≤ m) →
    ∃ t, serve (.writeReg 0 1) s = .next t ∧
      t.enc.width = s.enc.widthReg ∧ t.enc.height = s.enc.heightReg ∧
      t.enc.channels = fmtChannels s.enc.fmtReg ∧ t.enc.colorspace = fmtColorspace s.enc.fmtReg ∧
      t.enc.prev = ⟨0, 0, 0, 255⟩ ∧ (∀ k, slot t.enc.cache k = ⟨0, 0, 0, 0⟩) ∧ t.enc.run = 0 ∧ t.enc.idx = 0 ∧
      t.enc.out = encode (.header s.enc.widthReg s.enc.heightReg (fmtChannels s.enc.fmtReg)
        (fmtColorspace s.enc.fmtReg)) ∧
      t.enc.out.length = 14 ∧ t.enc.phase = .body ∧
      t.enc.pix = s.enc.pix ∧ t.enc.widthReg = s.enc.widthReg ∧ t.enc.heightReg = s.enc.heightReg ∧
      t.enc.fmtReg = s.enc.fmtReg ∧ SameOutsideEncoder { s with reply := none } t) ∧
  ∀ s : State,
    (s.enc.phase = .body → serve (.writeReg 0 1) s = .refused .startDuringBody) ∧
    (s.enc.phase ≠ .body → legalFormat (fmtChannels s.enc.fmtReg) (fmtColorspace s.enc.fmtReg) = false →
      serve (.writeReg 0 1) s = .refused .formatAtStart) ∧
    (s.enc.phase ≠ .body → legalFormat (fmtChannels s.enc.fmtReg) (fmtColorspace s.enc.fmtReg) = true →
      s.enc.pix.length ≠ s.enc.widthReg.toNat * s.enc.heightReg.toNat →
      serve (.writeReg 0 1) s = .refused .pixelCountAtStart) ∧
    (s.enc.phase ≠ .body → legalFormat (fmtChannels s.enc.fmtReg) (fmtColorspace s.enc.fmtReg) = true →
      s.enc.pix.length = s.enc.widthReg.toNat * s.enc.heightReg.toNat →
      (∃ m, s.cfg.maxPixels = some m ∧ m < s.enc.pix.length) →
      serve (.writeReg 0 1) s = .refused .tooManyPixels)

/-- R93: the Run step. -/
def Obligations.EncoderRunStepEffect : Prop :=
  ∀ (s : State) (cur : Pixel), s.enc.phase = .body → s.enc.idx < s.enc.width.toNat * s.enc.height.toNat →
    s.enc.pix[s.enc.idx]? = some cur → cur = s.enc.prev → (∀ w, s.cfg.runWidth = some w → s.enc.run + 1 < 2 ^ w) →
    ∃ t, encoderStep s = .next t ∧ t.enc = { s.enc with run := s.enc.run + 1, idx := s.enc.idx + 1 } ∧
      SameOutsideEncoder s t

/-- R94 and R96: the chunk step. The pending run is written before the chunk, both after all earlier output; PREV is the
pixel; every kind but Index writes the pixel to its slot, and no other slot changes. It holds wherever the output with these bytes
fits MAX_STREAM. -/
def Obligations.EncoderChunkStepEffect : Prop :=
  ∀ (s : State) (cur : Pixel), s.enc.phase = .body → s.enc.idx < s.enc.width.toNat * s.enc.height.toNat →
    s.enc.pix[s.enc.idx]? = some cur → cur ≠ s.enc.prev →
    (∀ m, s.cfg.maxStream = some m → s.enc.out.length + (flushRun s.enc.run).length +
      (bytesOf (classify s.cfg.diffTie cur s.enc.prev s.enc.cache)).length ≤ m) →
    ∃ t, encoderStep s = .next t ∧
      t.enc.out = s.enc.out ++ flushRun s.enc.run ++ bytesOf (classify s.cfg.diffTie cur s.enc.prev s.enc.cache) ∧
      t.enc.run = 0 ∧ t.enc.prev = cur ∧ t.enc.idx = s.enc.idx + 1 ∧
      (slot s.enc.cache (pixelHash cur) = cur → t.enc.cache = s.enc.cache) ∧
      slot t.enc.cache (pixelHash cur) = cur ∧ (∀ k, k ≠ pixelHash cur → slot t.enc.cache k = slot s.enc.cache k) ∧
      t.enc.phase = .body ∧ t.enc.pix = s.enc.pix ∧ t.enc.width = s.enc.width ∧ t.enc.height = s.enc.height ∧
      t.enc.channels = s.enc.channels ∧ t.enc.colorspace = s.enc.colorspace ∧
      t.enc.widthReg = s.enc.widthReg ∧ t.enc.heightReg = s.enc.heightReg ∧ t.enc.fmtReg = s.enc.fmtReg ∧
      SameOutsideEncoder s t

/-- R100: FINISH, wherever the output with the pending run and the end marker fits MAX_STREAM. -/
def Obligations.EncoderFinishEffect : Prop :=
  ∀ s : State, s.enc.phase = .body → s.enc.idx = s.enc.width.toNat * s.enc.height.toNat →
    (∀ m, s.cfg.maxStream = some m → s.enc.out.length + (flushRun s.enc.run).length + 8 ≤ m) →
    ∃ t, encoderStep s = .next t ∧
      t.enc = { s.enc with
        out := s.enc.out ++ flushRun s.enc.run ++ [0, 0, 0, 0, 0, 0, 0, 1], run := 0, phase := .done } ∧
      SameOutsideEncoder s t

/-- The model's choice where a bound of R6 is set and would be passed (log 10; U19 says `refuse` of the counter): a Run step
that would overflow RUN_W bits is refused, and so is a START, a chunk step or a FINISH whose output would be longer than
MAX_STREAM. -/
def Obligations.BoundedEncoderStepsAreRefused : Prop :=
  (∀ (s : State) (cur : Pixel), s.enc.phase = .body → s.enc.idx < s.enc.width.toNat * s.enc.height.toNat →
    s.enc.pix[s.enc.idx]? = some cur →
    (cur = s.enc.prev → (∃ w, s.cfg.runWidth = some w ∧ 2 ^ w ≤ s.enc.run + 1) →
      encoderStep s = .refused .runCounterOverflow) ∧
    (cur ≠ s.enc.prev → (∃ m, s.cfg.maxStream = some m ∧ m < s.enc.out.length + (flushRun s.enc.run).length +
        (bytesOf (classify s.cfg.diffTie cur s.enc.prev s.enc.cache)).length) →
      encoderStep s = .refused .outputTooLong)) ∧
  (∀ s : State, s.enc.phase = .body → s.enc.idx = s.enc.width.toNat * s.enc.height.toNat →
    (∃ m, s.cfg.maxStream = some m ∧ m < s.enc.out.length + (flushRun s.enc.run).length + 8) →
    encoderStep s = .refused .outputTooLong) ∧
  ∀ s : State, s.enc.phase ≠ .body → legalFormat (fmtChannels s.enc.fmtReg) (fmtColorspace s.enc.fmtReg) = true →
    s.enc.pix.length = s.enc.widthReg.toNat * s.enc.heightReg.toNat →
    (∀ m, s.cfg.maxPixels = some m → s.enc.pix.length ≤ m) → (∃ m, s.cfg.maxStream = some m ∧ m < 14) →
    serve (.writeReg 0 1) s = .refused .outputTooLong

/-- R104, R149: with the invariant, a configuration whose MAX_STREAM fits MAX_PIXELS, an unbounded run counter and an
admitted image, no encoder step faults or is refused, and none enters FAULT. -/
def Obligations.EncoderNeverStops : Prop :=
  ∀ s : State, Inv s → SizeInv s → s.cfg.wf = true → s.cfg.runWidth = none →
    (∀ m, s.cfg.maxPixels = some m → s.enc.width.toNat * s.enc.height.toNat ≤ m) →
    ∃ t, encoderStep s = .next t ∧ t.enc.phase ≠ .fault ∧
      (s.enc.phase = .body → t.enc.idx = s.enc.idx + 1 ∨ t.enc.phase = .done)

/-! ## The host's side -/

/-- R24, R146: what the three status registers answer: PHASE, FAULT and CAUSE at their bit positions, with their codes. -/
def Obligations.StatusWordsCarryCodes : Prop :=
  ∀ s : State, ∃ e d i : Nat,
    serve (.readReg 1) s = .next { s with reply := some (.value e) } ∧
    serve (.readReg 9) s = .next { s with reply := some (.value d) } ∧
    serve (.readReg 16) s = .next { s with reply := some (.value i) } ∧
    (e = 0 ↔ s.enc.phase = .idle) ∧ (e = 1 ↔ s.enc.phase = .body) ∧ (e = 2 ↔ s.enc.phase = .done) ∧
    (e = 3 ↔ s.enc.phase = .fault) ∧
    (d % 8 = 0 ↔ s.dec.phase = .idle) ∧ (d % 8 = 1 ↔ s.dec.phase = .body) ∧ (d % 8 = 2 ↔ s.dec.phase = .done) ∧
    (d % 8 = 3 ↔ s.dec.phase = .fault) ∧ d / 8 % 2 = 0 ∧
    (d / 16 % 8 = 0 ↔ s.dec.fault = .none) ∧ (d / 16 % 8 = 1 ↔ s.dec.fault = .malformedLength) ∧
    (d / 16 % 8 = 2 ↔ s.dec.fault = .pixelCountMismatch) ∧ (d / 16 % 8 = 3 ↔ s.dec.fault = .decodeError) ∧
    (d / 16 % 8 = 4 ↔ s.dec.fault = .headerError) ∧ d / 128 % 2 = 0 ∧
    (d / 256 = 0 ↔ s.dec.cause = .none) ∧ (d / 256 = 1 ↔ s.dec.cause = .endMarker) ∧
    (d / 256 = 2 ↔ s.dec.cause = .malformedTag) ∧ (d / 256 = 3 ↔ s.dec.cause = .truncatedChunk) ∧
    i % 16 = 0 ∧ (i / 16 = 0 ↔ s.imgFault = .none) ∧ (i / 16 = 1 ↔ s.imgFault = .malformedLength) ∧
    (i / 16 = 2 ↔ s.imgFault = .pixelCountMismatch)

/-- R24, R32, R34: while its engine is not in BODY, a configuration register reads back what was written; a stream handed
over and its length written to DEC_INLEN are in place as R168 asks, with no byte beyond them (log 6); a pixel sequence handed
over is ENC.PIX. Nothing else changes but the reply. -/
def Obligations.HostInputsAreHeld : Prop :=
  ∀ (s : State) (v : Nat),
    (s.enc.phase ≠ .body → ∀ n, n = 2 ∨ n = 3 ∨ n = 4 → v < (if n = 4 then 2 ^ 16 else 2 ^ 32) →
      ∃ t, serve (.writeReg n v) s = .next t ∧ serve (.readReg n) t = .next { t with reply := some (.value v) } ∧
        (∀ m, m ≠ n → m = 2 ∨ m = 3 ∨ m = 4 →
          ∃ x, serve (.readReg m) t = .next { t with reply := some (.value x) } ∧
            serve (.readReg m) s = .next { s with reply := some (.value x) }) ∧
        SameOutsideEncoder { s with reply := none } t ∧
        t.enc = { s.enc with widthReg := t.enc.widthReg, heightReg := t.enc.heightReg, fmtReg := t.enc.fmtReg }) ∧
    (s.dec.phase ≠ .body → ∃ t, serve (.writeReg 10 v) s = .next t ∧
      serve (.readReg 10) t = .next { t with reply := some (.value v) } ∧
      t = { s with reply := none, dec := { s.dec with inLen := v } }) ∧
    (s.dec.phase ≠ .body → ∀ bs, ∃ t u, serve (.loadStream bs) s = .next t ∧
      t = { s with reply := none, dec := { s.dec with inp := t.dec.inp } } ∧ t.dec.inp.wf ∧
      (∀ a, bs.length ≤ a → t.dec.inp.read a = none) ∧
      serve (.writeReg 10 bs.length) t = .next u ∧ StreamIs u bs) ∧
    (s.enc.phase ≠ .body → ∀ ps, serve (.loadPixels ps) s =
      .next { s with reply := none, enc := { s.enc with pix := ps } })

/-- R24, R168, R174: what reads of the other read-only registers answer: ENC_IDX the pixels consumed, in every phase;
DEC_WIDTH, DEC_HEIGHT and DEC_FMT (CHANNELS in bits 7:0, COLORSPACE in 15:8, 0 above) the header fields in DONE, and they are
refused in BODY and in FAULT. That they answer what they hold in IDLE is the model's reading (log 13). -/
def Obligations.ReadOnlyRegistersAnswer : Prop :=
  ∀ s : State,
    serve (.readReg 5) s = .next { s with reply := some (.value s.enc.idx) } ∧
    (s.dec.phase = .done ∨ s.dec.phase = .idle →
      serve (.readReg 11) s = .next { s with reply := some (.value s.dec.width.toNat) } ∧
      serve (.readReg 12) s = .next { s with reply := some (.value s.dec.height.toNat) } ∧
      ∃ f, serve (.readReg 13) s = .next { s with reply := some (.value f) } ∧
        f % 2 ^ 8 = s.dec.channels.toNat ∧ f / 2 ^ 8 = s.dec.colorspace.toNat) ∧
    (s.dec.phase = .body ∨ s.dec.phase = .fault → ∀ n, n = 11 ∨ n = 12 ∨ n = 13 →
      serve (.readReg n) s = .refused .resultNotAvailable)

/-- R24, R158: registers that do not exist, the access column, reserved bits, and the writes refused during BODY. Which
refusal is given where several apply, such as a reserved bit during BODY, is the model's choice (log 21). -/
def Obligations.AccessColumnIsEnforced : Prop :=
  ∀ (s : State) (v : Nat),
    (∀ n, n = 7 ∨ 17 ≤ n → serve (.readReg n) s = .refused (.noSuchRegister n) ∧
      serve (.writeReg n v) s = .refused (.noSuchRegister n)) ∧
    (∀ n, n = 0 ∨ n = 8 → serve (.readReg n) s = .refused (.readOfWriteOnly n) ∧
      (2 ≤ v → v < 2 ^ 32 → serve (.writeReg n v) s = .refused (.reservedBits n))) ∧
    (∀ n, n = 1 ∨ n = 5 ∨ n = 6 ∨ n = 9 ∨ (11 ≤ n ∧ n ≤ 16) →
      serve (.writeReg n v) s = .refused (.writeOfReadOnly n)) ∧
    (2 ^ 16 ≤ v → v < 2 ^ 32 → serve (.writeReg 4 v) s = .refused (.reservedBits 4)) ∧
    (s.enc.phase = .body → serve (.writeReg 0 1) s = .refused .startDuringBody ∧
      serve (.writeReg 2 v) s = .refused .configWriteDuringBody ∧
      serve (.writeReg 3 v) s = .refused .configWriteDuringBody ∧
      (v < 2 ^ 16 → serve (.writeReg 4 v) s = .refused .configWriteDuringBody) ∧
      ∀ ps, serve (.loadPixels ps) s = .refused .bufferWriteDuringBody) ∧
    (s.dec.phase = .body → serve (.writeReg 8 1) s = .refused .startDuringBody ∧
      serve (.writeReg 10 v) s = .refused .configWriteDuringBody ∧
      ∀ bs, serve (.loadStream bs) s = .refused .bufferWriteDuringBody)

/-- R33, R34, R128, R158: results are answered in DONE, unchanged and unchanging, and refused in every other phase. -/
def Obligations.ResultsOnlyInDone : Prop :=
  ∀ s : State,
    (s.enc.phase = .done → serve .readEncOut s = .next { s with reply := some (.bytes s.enc.out) }) ∧
    (s.enc.phase ≠ .done → serve .readEncOut s = .refused .resultNotAvailable) ∧
    (s.dec.phase = .done → serve .readDecOut s = .next { s with reply := some (.pixels s.dec.out) } ∧
      serve .readDecImage s = .next { s with reply := some (.image
        { width := s.dec.width, height := s.dec.height, channels := s.dec.channels, colorspace := s.dec.colorspace,
          pixels := s.dec.out }) }) ∧
    (s.dec.phase ≠ .done → serve .readDecOut s = .refused .resultNotAvailable ∧
      serve .readDecImage s = .refused .resultNotAvailable)

/-- R147, U13, U14: ENC_OUTLEN answers the length in DONE and a free value otherwise; DEC_POS and DEC_NPIX answer their
values but for a fault of kind HeaderError or cause END_MARKER, where each answers a free value. Nothing is claimed of a
free value, and drawing one changes nothing but the reply and the model's own counter. The form of the free values, and that
ENC_OUTLEN is one in IDLE as it is in BODY, are the model's choice (log 5). -/
def Obligations.UnspecifiedReadsAreFree : Prop :=
  ∀ s : State,
    (s.enc.phase = .done → serve (.readReg 6) s = .next { s with reply := some (.value s.enc.out.length) }) ∧
    (s.enc.phase ≠ .done → ∃ x, serve (.readReg 6) s =
      .next { s with reply := some (.value x), draws := s.draws + 1 }) ∧
    (¬ (s.dec.phase = .fault ∧ (s.dec.fault = .headerError ∨ s.dec.cause = .endMarker)) →
      serve (.readReg 14) s = .next { s with reply := some (.value s.dec.npix) } ∧
      serve (.readReg 15) s = .next { s with reply := some (.value s.dec.pos) }) ∧
    (s.dec.phase = .fault → (s.dec.fault = .headerError ∨ s.dec.cause = .endMarker) →
      (∃ x, serve (.readReg 14) s = .next { s with reply := some (.value x), draws := s.draws + 1 }) ∧
        ∃ x, serve (.readReg 15) s = .next { s with reply := some (.value x), draws := s.draws + 1 })

/-- R136: the constructor from raw bytes: refused for illegal channels or colorspace, MalformedLength first, then the
count, then the Image, whose pixel k is made of bytes 4k to 4k+3, or 3k to 3k+2 with alpha 255. -/
def Obligations.ImageFromRawBytes : Prop :=
  ∀ (s : State) (raw : List Byte) (w h : Word) (ch cs : Byte),
    (¬ ((ch = 3 ∨ ch = 4) ∧ (cs = 0 ∨ cs = 1)) → serve (.imageFromRaw raw w h ch cs) s = .refused .imageFormat) ∧
    ((ch = 3 ∨ ch = 4) → (cs = 0 ∨ cs = 1) →
      (raw.length % ch.toNat ≠ 0 → serve (.imageFromRaw raw w h ch cs) s =
        .next { s with imgFault := .malformedLength, reply := none }) ∧
      (raw.length % ch.toNat = 0 → raw.length / ch.toNat ≠ w.toNat * h.toNat →
        serve (.imageFromRaw raw w h ch cs) s = .next { s with imgFault := .pixelCountMismatch, reply := none }) ∧
      (raw.length % ch.toNat = 0 → raw.length / ch.toNat = w.toNat * h.toNat →
        ∃ ps : List Pixel, serve (.imageFromRaw raw w h ch cs) s =
            .next { s with imgFault := .none, reply := some (.image ⟨w, h, ch, cs, ps⟩) } ∧
          ps.length = w.toNat * h.toNat ∧
          ∀ k p, ps[k]? = some p →
            raw[ch.toNat * k]? = some p.r ∧ raw[ch.toNat * k + 1]? = some p.g ∧ raw[ch.toNat * k + 2]? = some p.b ∧
            (ch = 4 → raw[ch.toNat * k + 3]? = some p.a) ∧ (ch = 3 → p.a = 255)))

/-- R138: the constructor from a pixel sequence: the count, then the Image. -/
def Obligations.ImageFromPixelSequence : Prop :=
  ∀ (s : State) (ps : List Pixel) (w h : Word) (ch cs : Byte),
    (¬ ((ch = 3 ∨ ch = 4) ∧ (cs = 0 ∨ cs = 1)) → serve (.imageFromPixels ps w h ch cs) s = .refused .imageFormat) ∧
    ((ch = 3 ∨ ch = 4) → (cs = 0 ∨ cs = 1) →
      (ps.length ≠ w.toNat * h.toNat → serve (.imageFromPixels ps w h ch cs) s =
        .next { s with imgFault := .pixelCountMismatch, reply := none }) ∧
      (ps.length = w.toNat * h.toNat → serve (.imageFromPixels ps w h ch cs) s =
        .next { s with imgFault := .none, reply := some (.image ⟨w, h, ch, cs, ps⟩) }))

/-- R140 and R143: the accessor answers r, g, b and, for 4 channels, a of each pixel in turn; applied to what the
constructor built from raw bytes it answers the raw bytes, for 3 and for 4 channels. -/
def Obligations.AccessorEmitsChannelsAndInvertsFromRaw : Prop :=
  (∀ (s : State) (i : Image), (i.channels = 3 ∨ i.channels = 4) →
    i.pixels.length = i.width.toNat * i.height.toNat →
    ∃ bs : List Byte, serve (.imageToBytes i) s = .next { s with reply := some (.bytes bs) } ∧
      bs.length = i.channels.toNat * i.pixels.length ∧
      ∀ k p, i.pixels[k]? = some p →
        bs[i.channels.toNat * k]? = some p.r ∧ bs[i.channels.toNat * k + 1]? = some p.g ∧
        bs[i.channels.toNat * k + 2]? = some p.b ∧ (i.channels = 4 → bs[i.channels.toNat * k + 3]? = some p.a)) ∧
  ∀ (s t : State) (raw : List Byte) (w h : Word) (ch cs : Byte) (i : Image),
    serve (.imageFromRaw raw w h ch cs) s = .next t → t.reply = some (.image i) →
    serve (.imageToBytes i) t = .next { t with reply := some (.bytes raw) }

/-- A host request at the head of the agenda is what the next step serves; an engine's turn is that engine's step; with
an empty agenda a running decoder moves, else the encoder, and an idle block waits unchanged (log 1: the model's own). -/
def Obligations.StepTakesTheNextTurn : Prop :=
  ∀ s : State,
    (∀ r rest, s.agenda = .host r :: rest → step s = serve r { s with agenda := rest }) ∧
    (∀ rest, s.agenda = .encoder :: rest → step s = encoderStep { s with agenda := rest }) ∧
    (∀ rest, s.agenda = .decoder :: rest → step s = decoderStep { s with agenda := rest }) ∧
    (s.agenda = [] → s.dec.phase = .body → step s = decoderStep s) ∧
    (s.agenda = [] → s.dec.phase ≠ .body → s.enc.phase = .body → step s = encoderStep s) ∧
    (s.agenda = [] → s.dec.phase ≠ .body → s.enc.phase ≠ .body → step s = .next s)

/-! ## Whole-machine rules -/

/-- R29, R25, R26: what power-on reset fixes. That the invariants hold there rests on the values the model chose for what R29
leaves unspecified: PREV, the caches, the counters, the sequences (log 4). -/
def Obligations.PowerOnState : Prop :=
  State.reset.enc.phase = .idle ∧ State.reset.dec.phase = .idle ∧ State.reset.dec.fault = .none ∧
  State.reset.dec.cause = .none ∧ State.reset.imgFault = .none ∧ Inv State.reset ∧ SizeInv State.reset

/-- Every step keeps the invariant: the stream memory's canonical form, counts and lengths in agreement, every cached
pixel in the slot of its hash, the fault registers in agreement with PHASE, DEC.POS between the header and DEC.END,
the encoder's index and run within the image (R14, R16, R17, R19, R20, R21, R25, R26, R149). -/
def Obligations.StepKeepsInvariant : Prop :=
  ∀ s t : State, Inv s → step s = .next t → Inv t

/-- Every step keeps the size bounds, for the running scan those of R131 and for the encoder's output those of R98. -/
def Obligations.StepKeepsSizeBounds : Prop :=
  ∀ s t : State, SizeInv s → step s = .next t → SizeInv t

/-- No step writes the configuration (R6: fixed parameters of the machine), nor the input of a running operation (R31):
DEC.IN, DEC_INLEN and ENC.PIX are what START found until the phase leaves BODY. -/
def Obligations.InputsAndParametersAreFixed : Prop :=
  ∀ s t : State, step s = .next t →
    t.cfg = s.cfg ∧
    (s.dec.phase = .body → t.dec.inp = s.dec.inp ∧ t.dec.inLen = s.dec.inLen) ∧
    (s.enc.phase = .body → t.enc.pix = s.enc.pix ∧ t.enc.widthReg = s.enc.widthReg ∧
      t.enc.heightReg = s.enc.heightReg ∧ t.enc.fmtReg = s.enc.fmtReg)

/-- ENC.OUT only grows while an operation runs (R33), and DEC.OUT likewise (R22): what was there stays, in place. -/
def Obligations.OutputsOnlyGrow : Prop :=
  ∀ s t : State, step s = .next t →
    (s.enc.phase = .body → ∃ bs, t.enc.out = s.enc.out ++ bs) ∧
    (s.dec.phase = .body → ∃ ps, t.dec.out = s.dec.out ++ ps ∧ t.dec.npix = s.dec.npix + ps.length)

/-- R10: the engines share nothing. Neither engine's step changes the other, and what it does is the same whatever the
other holds. -/
def Obligations.EnginesShareNothing : Prop :=
  ∀ (s : State) (e : Encoder) (d : Decoder),
    decoderStep { s with enc := e } = mapNext (fun t => { t with enc := e }) (decoderStep s) ∧
    encoderStep { s with dec := d } = mapNext (fun t => { t with dec := d }) (encoderStep s) ∧
    serve (.writeReg 8 1) { s with enc := e } = mapNext (fun t => { t with enc := e }) (serve (.writeReg 8 1) s) ∧
    serve (.writeReg 0 1) { s with dec := d } = mapNext (fun t => { t with dec := d }) (serve (.writeReg 0 1) s) ∧
    (∀ t, decoderStep s = .next t → t.enc = s.enc) ∧ (∀ t, encoderStep s = .next t → t.dec = s.dec)

/-- R166: nothing persists from one operation to the next. A decoder START on two machines that agree in parameters and
stream ends in the same phase, fault and cause, and, where it enters BODY, in the same decoder; an encoder START on two
that agree in parameters, registers and pixels ends in the same encoder. -/
def Obligations.StartForgetsThePast : Prop :=
  ∀ s s' t t' : State, s'.cfg = s.cfg →
    (s'.dec.inp = s.dec.inp → s'.dec.inLen = s.dec.inLen →
      serve (.writeReg 8 1) s = .next t → serve (.writeReg 8 1) s' = .next t' →
      t'.dec.phase = t.dec.phase ∧ t'.dec.fault = t.dec.fault ∧ t'.dec.cause = t.dec.cause ∧
      (t.dec.phase = .body → t'.dec = t.dec)) ∧
    (s'.enc.widthReg = s.enc.widthReg → s'.enc.heightReg = s.enc.heightReg → s'.enc.fmtReg = s.enc.fmtReg →
      s'.enc.pix = s.enc.pix →
      serve (.writeReg 0 1) s = .next t → serve (.writeReg 0 1) s' = .next t' → t'.enc = t.enc)

/-! ## Headlines -/

/-- R102, R176: an admitted encode whose stream fits MAX_STREAM and whose runs fit RUN_W, run step by step from START, takes
exactly width×height + 2 steps and leaves in ENC.OUT what the composed function gives. That the encoder moves when the agenda
is empty is log 1. -/
def Obligations.EncoderComputesReference : Prop :=
  ∀ s : State, s.agenda = [.host (.writeReg 0 1)] → s.dec.phase ≠ .body → s.enc.phase ≠ .body →
    legalFormat (fmtChannels s.enc.fmtReg) (fmtColorspace s.enc.fmtReg) = true →
    s.enc.pix.length = s.enc.widthReg.toNat * s.enc.heightReg.toNat →
    (∀ m, s.cfg.maxPixels = some m → s.enc.pix.length ≤ m) →
    (∀ m, s.cfg.maxStream = some m → (encodeImage s.cfg.diffTie ⟨s.enc.widthReg, s.enc.heightReg,
      fmtChannels s.enc.fmtReg, fmtColorspace s.enc.fmtReg, s.enc.pix⟩).length ≤ m) →
    (∀ w, s.cfg.runWidth = some w → s.enc.pix.length < 2 ^ w) →
    ∃ t, Host.Core.run core (s.enc.widthReg.toNat * s.enc.heightReg.toNat + 2) s = .next t ∧
      t.enc.phase = .done ∧
      t.enc.out = encodeImage s.cfg.diffTie ⟨s.enc.widthReg, s.enc.heightReg, fmtChannels s.enc.fmtReg,
        fmtColorspace s.enc.fmtReg, s.enc.pix⟩ ∧
      t.dec = s.dec

/-- R129, R176: a decode of any stream in place, run step by step from START, ends within (N - 22) + 2 steps as the
composed function says, after at least the START step: DONE with its Image, FAULT with its kind and cause, or the same
refusal at START. That the decoder moves when the agenda is empty, before an encoder that is in BODY too, is log 1; the bound
and the unchanged encoder rest on it. -/
def Obligations.DecoderComputesReference : Prop :=
  ∀ (s : State) (bs : List Byte), s.agenda = [.host (.writeReg 8 1)] → s.dec.phase ≠ .body → StreamIs s bs →
    match decodeStream s.cfg bs with
    | .refused r => step s = .refused r
    | .fault k c => ∃ n t, 1 ≤ n ∧ n ≤ (bs.length - 22) + 2 ∧ Host.Core.run core n s = .next t ∧
        t.dec.phase = .fault ∧ t.dec.fault = k ∧ t.dec.cause = c ∧ t.enc = s.enc
    | .image i => ∃ n t, 1 ≤ n ∧ n ≤ (bs.length - 22) + 2 ∧ Host.Core.run core n s = .next t ∧
        t.dec.phase = .done ∧ decodedImage t.dec = i ∧ t.dec.fault = .none ∧ t.enc = s.enc

/-- R106, R173: the round trip. For every valid Image, under every value of the parameters that admits it, decoding what
the encoder writes gives the Image back. -/
def Obligations.RoundTripIsLossless : Prop :=
  ∀ (cfg : Config) (tie : DiffTie) (i : Image), i.wf = true → legalFormat i.channels i.colorspace = true →
    (∀ m, cfg.maxPixels = some m → i.pixels.length ≤ m) →
    (∀ m, cfg.maxStream = some m → (encodeImage tie i).length ≤ m) →
    decodeStream cfg (encodeImage tie i) = .image i
end

