-- ==== Sys2Proof/Laws/Memory.lean ====
section
/-! SUPPORT. The laws of stream memory: read after write, writes elsewhere, the canonical form kept by every operation,
and what a stream put in place reads as. -/

namespace Sys2Proof.Machine

theorem readCells_writeCells_same (cs : List Host.Cell) (a : Nat) (b : Byte) :
    readCells (writeCells cs a b) a = some b := by
  induction cs with
  | nil => simp [writeCells, readCells]
  | cons c cs ih =>
    unfold writeCells
    split
    · simp [readCells]
    · split
      · simp [readCells]
      · rename_i h1 h2
        simp [readCells, ih, Ne.symm h2]

theorem readCells_writeCells_other (cs : List Host.Cell) {a x : Nat} (b : Byte) (h : x ≠ a) :
    readCells (writeCells cs a b) x = readCells cs x := by
  induction cs with
  | nil => simp [writeCells, readCells, Ne.symm h]
  | cons c cs ih =>
    unfold writeCells
    split
    · simp [readCells, Ne.symm h]
    · split
      · rename_i h1 h2
        simp [readCells, ← h2, Ne.symm h]
      · simp [readCells, ih]

/-- Read after write, same offset. -/
@[simp] theorem Memory.read_write_same (m : Memory) (a : Nat) (b : Byte) : (m.write a b).read a = some b :=
  readCells_writeCells_same m.cells a b

/-- Read after write, another offset. -/
theorem Memory.read_write_other (m : Memory) {a x : Nat} (b : Byte) (h : x ≠ a) : (m.write a b).read x = m.read x :=
  readCells_writeCells_other m.cells b h

theorem mem_writeCells {cs : List Host.Cell} {a : Nat} {b : Byte} {c : Host.Cell} (h : c ∈ writeCells cs a b) :
    c = (a, b) ∨ c ∈ cs := by
  induction cs with
  | nil => simpa [writeCells] using h
  | cons d cs ih =>
    unfold writeCells at h
    split at h
    · simpa using h
    · split at h
      · simp only [List.mem_cons] at h ⊢
        tauto
      · simp only [List.mem_cons] at h ⊢
        rcases h with h | h
        · exact .inr (.inl h)
        · exact (ih h).imp id .inr

theorem writeCells_sorted {cs : List Host.Cell} (a : Nat) (b : Byte) (h : cs.Pairwise fun x y => x.1 < y.1) :
    (writeCells cs a b).Pairwise fun x y => x.1 < y.1 := by
  induction cs with
  | nil => simp [writeCells]
  | cons c cs ih =>
    rw [List.pairwise_cons] at h
    unfold writeCells
    split
    · rename_i hlt
      refine List.pairwise_cons.2 ⟨fun d hd => ?_, List.pairwise_cons.2 h⟩
      rcases List.mem_cons.1 hd with rfl | hd
      · exact hlt
      · exact hlt.trans (h.1 d hd)
    · split
      · rename_i heq
        exact List.pairwise_cons.2 ⟨fun d hd => by simpa [heq] using h.1 d hd, h.2⟩
      · rename_i h1 h2
        refine List.pairwise_cons.2 ⟨fun d hd => ?_, ih h.2⟩
        rcases mem_writeCells hd with rfl | hd
        · simp only; omega
        · exact h.1 d hd

/-- A write keeps the canonical form. -/
theorem Memory.write_wf {m : Memory} (a : Nat) (b : Byte) (h : m.wf) : (m.write a b).wf :=
  writeCells_sorted a b h

/-- The empty memory has the canonical form. -/
theorem Memory.empty_wf : Memory.empty.wf := by decide

/-- Writing bytes keeps the canonical form. -/
theorem Memory.writeBytes_wf {m : Memory} (a : Nat) (bs : List Byte) (h : m.wf) : (m.writeBytes a bs).wf := by
  induction bs generalizing m a with
  | nil => exact h
  | cons b bs ih => exact ih (a + 1) (write_wf a b h)

/-- A stream put in place has the canonical form. -/
theorem Memory.ofBytes_wf (bs : List Byte) : (Memory.ofBytes bs).wf := writeBytes_wf 0 bs empty_wf

/-- Reset memory has the canonical form. -/
theorem State.reset_stream_wf : State.reset.dec.inp.wf := Memory.empty_wf

/-- Writing bytes leaves the offsets below them alone. -/
theorem Memory.read_writeBytes_below (m : Memory) {a x : Nat} (bs : List Byte) (h : x < a) :
    (m.writeBytes a bs).read x = m.read x := by
  induction bs generalizing m a with
  | nil => rfl
  | cons b bs ih =>
    rw [writeBytes, ih _ (by omega), read_write_other _ _ (by omega)]

/-- Byte `k` of some bytes written from `a` on reads back at `a + k`. -/
theorem Memory.read_writeBytes (m : Memory) (a : Nat) (bs : List Byte) (k : Nat) (b : Byte) (h : bs[k]? = some b) :
    (m.writeBytes a bs).read (a + k) = some b := by
  induction bs generalizing m a k with
  | nil => simp at h
  | cons c bs ih =>
    cases k with
    | zero =>
      have hb : c = b := by simpa using h
      rw [writeBytes, read_writeBytes_below _ _ (by omega), hb]
      exact read_write_same m a b
    | succ k =>
      have hk : bs[k]? = some b := by simpa using h
      have := ih (m.write a c) (a + 1) k hk
      rwa [show a + 1 + k = a + (k + 1) by omega] at this

/-- A stream put in place reads byte for byte. -/
theorem Memory.read_ofBytes (bs : List Byte) (k : Nat) (b : Byte) (h : bs[k]? = some b) :
    (Memory.ofBytes bs).read k = some b := by
  simpa [Memory.ofBytes] using read_writeBytes Memory.empty 0 bs k b h

/-- Reading `n` bytes answers as many as asked for. -/
theorem Memory.readBytes_length {m : Memory} {a n : Nat} {bs : List Byte} (h : m.readBytes a n = some bs) :
    bs.length = n := by
  induction n generalizing a bs with
  | zero => simp [readBytes] at h; simp [← h]
  | succ n ih =>
    unfold readBytes at h
    split at h
    · rename_i h2
      simp only [Option.some.injEq] at h
      simp [← h, ih h2]
    · simp at h

/-- Bytes that are all in place are read, in order. -/
theorem Memory.readBytes_eq_some (m : Memory) (a : Nat) (bs : List Byte)
    (h : ∀ k b, bs[k]? = some b → m.read (a + k) = some b) : m.readBytes a bs.length = some bs := by
  induction bs generalizing a with
  | nil => rfl
  | cons b bs ih =>
    have h0 : m.read a = some b := by simpa using h 0 b rfl
    have h1 : m.readBytes (a + 1) bs.length = some bs := ih (a + 1) fun k c hc => by
      have := h (k + 1) c (by simpa using hc)
      rwa [show a + (k + 1) = a + 1 + k by omega] at this
    simp [readBytes, h0, h1]

end Sys2Proof.Machine
end

