-- ==== Sys2Proof/Laws/Decode.lean ====
section
/-! SUPPORT. What a decoded unit and a fetch can be: the inversion lemmas of the decoder and of fetch. -/

namespace Sys2Proof

/-! ## What well-formedness says -/

theorem inRange_iff (lo hi x : Int) : inRange lo hi x = true ↔ lo ≤ x ∧ x ≤ hi := by
  simp only [inRange, Bool.and_eq_true, decide_eq_true_eq]

theorem wellFormed_diff (dr dg db : Int) :
    (Instr.diff dr dg db).wellFormed = true ↔
      ((-2 ≤ dr ∧ dr ≤ 1) ∧ (-2 ≤ dg ∧ dg ≤ 1)) ∧ (-2 ≤ db ∧ db ≤ 1) := by
  simp only [Instr.wellFormed, Bool.and_eq_true, inRange_iff]

theorem wellFormed_luma (dg drDg dbDg : Int) :
    (Instr.luma dg drDg dbDg).wellFormed = true ↔
      ((-32 ≤ dg ∧ dg ≤ 31) ∧ (-8 ≤ drDg ∧ drDg ≤ 7)) ∧ (-8 ≤ dbDg ∧ dbDg ≤ 7) := by
  simp only [Instr.wellFormed, Bool.and_eq_true, inRange_iff]

theorem wellFormed_run (n : Nat) : (Instr.run n).wellFormed = true ↔ 1 ≤ n ∧ n ≤ 62 := by
  simp only [Instr.wellFormed, Bool.and_eq_true, decide_eq_true_eq]
  rfl

theorem wellFormed_header (w h : Word) (ch cs : Byte) :
    (Instr.header w h ch cs).wellFormed = true ↔ (ch = 3 ∨ ch = 4) ∧ (cs = 0 ∨ cs = 1) := by
  simp only [Instr.wellFormed, legalChannels, legalColorspace, Bool.and_eq_true, Bool.or_eq_true, beq_iff_eq]

/-! ## Tag bytes -/

/-- The value of a byte made of a tag and a field that fits. -/
theorem tagByte_toNat (tag : BitVec 2) {n : Nat} (h : n < 64) : (tagByte tag n).toNat = tag.toNat * 64 + n := by
  have := tag.isLt
  simp only [tagByte, BitVec.toNat_ofNat]
  omega

theorem tagDiff_toNat {n : Nat} (h : n < 64) : (tagByte Config.tagDiff n).toNat = 64 + n := by
  rw [tagByte_toNat _ h]; rfl

theorem tagIndex_toNat {n : Nat} (h : n < 64) : (tagByte Config.tagIndex n).toNat = n := by
  rw [tagByte_toNat _ h]; simp [Config.tagIndex]

theorem tagLuma_toNat {n : Nat} (h : n < 64) : (tagByte Config.tagLuma n).toNat = 128 + n := by
  rw [tagByte_toNat _ h]; rfl

theorem tagRun_toNat {n : Nat} (h : n < 64) : (tagByte Config.tagRun n).toNat = 192 + n := by
  rw [tagByte_toNat _ h]; rfl

/-- Four bytes put together from a 32-bit value give it back (R7, R35). -/
theorem be32_u32be (w : Word) :
    be32 (BitVec.ofNat 8 (w.toNat / 2 ^ 24)) (BitVec.ofNat 8 (w.toNat / 2 ^ 16)) (BitVec.ofNat 8 (w.toNat / 2 ^ 8))
      (BitVec.ofNat 8 w.toNat) = w := by
  apply BitVec.eq_of_toNat_eq
  have := w.isLt
  simp only [be32, BitVec.toNat_ofNat]
  omega

/-- A 32-bit value put together from four bytes gives them back (R7, R35). -/
theorem u32be_be32 (a b c d : Byte) : u32be (be32 a b c d) = [a, b, c, d] := by
  have := a.isLt
  have := b.isLt
  have := c.isLt
  have := d.isLt
  simp only [u32be, be32, BitVec.toNat_ofNat, List.cons.injEq, and_true]
  refine ⟨?_, ?_, ?_, ?_⟩ <;>
    (apply BitVec.eq_of_toNat_eq; simp only [BitVec.toNat_ofNat]; omega)

/-! ## Fields and rows -/

/-- A field is narrower than its width. -/
theorem byteField_lt (b : Byte) (low width : Nat) : byteField b low width < 2 ^ width :=
  Nat.mod_lt _ (Nat.two_pow_pos width)

/-- A row that was found is a row of the table. -/
theorem rowOf_mem {t : Byte} {row : ChunkRow} (h : rowOf t = some row) : row ∈ chunkRows :=
  List.mem_of_find?_eq_some h

/-- Over all 256 bytes: the field of a RUN row is at most 61 (R58). -/
theorem run_rows_checked : ∀ t : Fin 256,
    (rowOf (BitVec.ofFin t)).all (fun row => decide (row.kind = .run → byteField (BitVec.ofFin t) 0 6 ≤ 61)) = true := by
  decide +kernel

/-- A first byte read as RUN never holds the two field values that are other tags (R58). -/
theorem run_field_le {t : Byte} {row : ChunkRow} (h : rowOf t = some row) (hk : row.kind = .run) :
    byteField t 0 6 ≤ 61 := by
  obtain ⟨f⟩ := t
  have all := run_rows_checked f
  rw [h] at all
  simpa [hk] using all

/-- A tag byte whose row is known decodes to what its operands give. -/
theorem decodeChunk_of_row {t : Byte} {tail rest : List Byte} {k : ChunkKind} {i : Instr}
    (h : ∃ row, rowOf t = some row ∧ row.kind = k) (ho : chunkOperands k (t :: tail) = some (i, rest)) :
    decodeChunk (t :: tail) = .ok (i, rest) := by
  obtain ⟨row, hr, rfl⟩ := h
  simp [decodeChunk, hr, ho]

/-- What a successful chunk decode has read: a tag byte, its row, and the row's operands. -/
theorem decodeChunk_inv {bs rest : List Byte} {i : Instr} (h : decodeChunk bs = .ok (i, rest)) :
    ∃ t tail row, bs = t :: tail ∧ rowOf t = some row ∧ chunkOperands row.kind bs = some (i, rest) := by
  unfold decodeChunk at h
  split at h
  · cases h
  · rename_i t tail
    split at h
    · cases h
    · rename_i row hr
      split at h
      · cases h
      · rename_i u hu
        simp only [Except.ok.injEq] at h
        exact ⟨t, tail, row, rfl, hr, by rw [hu, h]⟩

/-- The length of a kind's chunks (R48). -/
def kindLength : ChunkKind → Nat
  | .rgb => 4
  | .rgba => 5
  | .diff => 1
  | .index => 1
  | .luma => 2
  | .run => 1

/-- The operands of a kind make a chunk, and take as many bytes as it is long. -/
theorem chunkOperands_inv {k : ChunkKind} {bs rest : List Byte} {i : Instr}
    (h : chunkOperands k bs = some (i, rest)) :
    i.place = .body ∧ bs.length = i.length + rest.length ∧
      i.length = kindLength k := by
  cases k <;> rcases bs with _ | ⟨x, _ | ⟨y, _ | ⟨z, _ | ⟨u, _ | ⟨v, bs⟩⟩⟩⟩⟩ <;>
    simp only [chunkOperands, Option.some.injEq, Prod.mk.injEq, reduceCtorEq] at h
  all_goals
    obtain ⟨rfl, rfl⟩ := h
    refine ⟨rfl, ?_, rfl⟩
    simp only [List.length_cons, List.length_nil, Instr.length]
    try omega

/-- Every row's length is that of its kind's chunks (R48). -/
theorem row_length {t : Byte} {row : ChunkRow} (h : rowOf t = some row) :
    row.length = kindLength row.kind := by
  have hm := rowOf_mem h
  simp only [chunkRows, List.mem_cons, List.not_mem_nil, or_false] at hm
  rcases hm with rfl | rfl | rfl | rfl | rfl | rfl <;> rfl

/-- The operands of a tag byte's row are in range (R57, R58). -/
theorem operands_wellFormed {t : Byte} {tail rest : List Byte} {row : ChunkRow} {i : Instr} (hr : rowOf t = some row)
    (h : chunkOperands row.kind (t :: tail) = some (i, rest)) : i.wellFormed = true := by
  have h4 := byteField_lt t Config.diffLowR 2
  have h2 := byteField_lt t Config.diffLowG 2
  have h0 := byteField_lt t Config.diffLowB 2
  have h6 := byteField_lt t 0 6
  cases hk : row.kind <;> rw [hk] at h
  case run =>
    have hf := run_field_le hr hk
    simp only [chunkOperands, Option.some.injEq, Prod.mk.injEq] at h
    obtain ⟨rfl, rfl⟩ := h
    simp [Instr.wellFormed, Config.runMax]
    omega
  case diff =>
    simp only [chunkOperands, Option.some.injEq, Prod.mk.injEq] at h
    obtain ⟨rfl, rfl⟩ := h
    simp [Instr.wellFormed, inRange, Config.biasDiff]
    omega
  case luma =>
    cases tail with
    | nil => simp [chunkOperands] at h
    | cons u tail =>
      have hr4 := byteField_lt u Config.lumaLowR 4
      have hb4 := byteField_lt u Config.lumaLowB 4
      simp only [chunkOperands, Option.some.injEq, Prod.mk.injEq] at h
      obtain ⟨rfl, rfl⟩ := h
      simp [Instr.wellFormed, inRange, Config.biasLuma, Config.biasLumaG]
      omega
  all_goals
    unfold chunkOperands at h
    split at h <;> simp only [Option.some.injEq, Prod.mk.injEq, reduceCtorEq] at h
    all_goals
      obtain ⟨rfl, rfl⟩ := h
      first | rfl | simp_all

/-- A decoded chunk: its place, its length in bytes, its operands in range. -/
theorem decodeChunk_spec {bs rest : List Byte} {i : Instr} (h : decodeChunk bs = .ok (i, rest)) :
    i.place = .body ∧ bs.length = i.length + rest.length ∧ i.wellFormed = true := by
  obtain ⟨t, tail, row, rfl, hr, ho⟩ := decodeChunk_inv h
  exact ⟨(chunkOperands_inv ho).1, (chunkOperands_inv ho).2.1, operands_wellFormed hr ho⟩

namespace Machine

/-- What a successful MemRead has found: the range within DEC_INLEN, and that many bytes. -/
theorem memRead_inv {d : Decoder} {a n : Nat} {bs : List Byte} (h : memRead d a n = .ok bs) :
    a + n ≤ d.inLen ∧ d.inp.readBytes a n = some bs := by
  unfold memRead at h
  split at h
  · cases h
  · split at h
    · cases h
    · rename_i hle _ bs' hb
      simp only [Except.ok.injEq] at h
      exact ⟨by omega, by rw [hb, h]⟩

/-- A fetched unit is a well-formed chunk that ends at or before DEC.END (R114). -/
theorem fetch_unit {d : Decoder} {i : Instr} (h : fetch d = .unit i) :
    i.place = .body ∧ i.wellFormed = true ∧ d.pos + i.length ≤ d.limit := by
  unfold fetch at h
  split at h
  · cases h
  · rename_i bs hb
    split at h
    · cases h
    · rename_i t tail
      split at h
      · cases h
      · rename_i row hr
        unfold fetchPayload at h
        split at h
        · cases h
        · rename_i hfit
          split at h
          · cases h
          · rename_i bs2 hb2
            split at h
            · rename_i j rest hd
              simp only [Fetched.unit.injEq] at h
              subst h
              obtain ⟨hp, hl, hw⟩ := decodeChunk_spec hd
              have hread := Memory.readBytes_length (memRead_inv hb2).2
              exact ⟨hp, hw, by omega⟩
            · cases h
            · cases h

end Machine
end Sys2Proof
end

