-- ==== Sys2Proof/Laws/State.lean ====
section
/-! SUPPORT. One lemma per field per update: what each named update of the state leaves in each field. -/

namespace Sys2Proof.Machine

/-! `produce` -/

@[simp] theorem produce_cfg (p : Pixel) (s : State) : (produce p s).cfg = s.cfg := rfl
@[simp] theorem produce_enc (p : Pixel) (s : State) : (produce p s).enc = s.enc := rfl
@[simp] theorem produce_imgFault (p : Pixel) (s : State) : (produce p s).imgFault = s.imgFault := rfl
@[simp] theorem produce_agenda (p : Pixel) (s : State) : (produce p s).agenda = s.agenda := rfl
@[simp] theorem produce_reply (p : Pixel) (s : State) : (produce p s).reply = s.reply := rfl
@[simp] theorem produce_draws (p : Pixel) (s : State) : (produce p s).draws = s.draws := rfl
@[simp] theorem produce_dec_phase (p : Pixel) (s : State) : (produce p s).dec.phase = s.dec.phase := rfl
@[simp] theorem produce_dec_fault (p : Pixel) (s : State) : (produce p s).dec.fault = s.dec.fault := rfl
@[simp] theorem produce_dec_cause (p : Pixel) (s : State) : (produce p s).dec.cause = s.dec.cause := rfl
@[simp] theorem produce_dec_inLen (p : Pixel) (s : State) : (produce p s).dec.inLen = s.dec.inLen := rfl
@[simp] theorem produce_dec_inp (p : Pixel) (s : State) : (produce p s).dec.inp = s.dec.inp := rfl
@[simp] theorem produce_dec_width (p : Pixel) (s : State) : (produce p s).dec.width = s.dec.width := rfl
@[simp] theorem produce_dec_height (p : Pixel) (s : State) : (produce p s).dec.height = s.dec.height := rfl
@[simp] theorem produce_dec_channels (p : Pixel) (s : State) : (produce p s).dec.channels = s.dec.channels := rfl
@[simp] theorem produce_dec_colorspace (p : Pixel) (s : State) : (produce p s).dec.colorspace = s.dec.colorspace :=
  rfl
@[simp] theorem produce_dec_prev (p : Pixel) (s : State) : (produce p s).dec.prev = p := rfl
@[simp] theorem produce_dec_cache (p : Pixel) (s : State) : (produce p s).dec.cache = remember s.dec.cache p := rfl
@[simp] theorem produce_dec_pos (p : Pixel) (s : State) : (produce p s).dec.pos = s.dec.pos := rfl
@[simp] theorem produce_dec_limit (p : Pixel) (s : State) : (produce p s).dec.limit = s.dec.limit := rfl
@[simp] theorem produce_dec_npix (p : Pixel) (s : State) : (produce p s).dec.npix = s.dec.npix + 1 := rfl
@[simp] theorem produce_dec_out (p : Pixel) (s : State) : (produce p s).dec.out = s.dec.out ++ [p] := rfl

/-! `advance` -/

@[simp] theorem advance_cfg (n : Nat) (s : State) : (advance n s).cfg = s.cfg := rfl
@[simp] theorem advance_enc (n : Nat) (s : State) : (advance n s).enc = s.enc := rfl
@[simp] theorem advance_imgFault (n : Nat) (s : State) : (advance n s).imgFault = s.imgFault := rfl
@[simp] theorem advance_agenda (n : Nat) (s : State) : (advance n s).agenda = s.agenda := rfl
@[simp] theorem advance_reply (n : Nat) (s : State) : (advance n s).reply = s.reply := rfl
@[simp] theorem advance_draws (n : Nat) (s : State) : (advance n s).draws = s.draws := rfl
@[simp] theorem advance_dec_phase (n : Nat) (s : State) : (advance n s).dec.phase = s.dec.phase := rfl
@[simp] theorem advance_dec_fault (n : Nat) (s : State) : (advance n s).dec.fault = s.dec.fault := rfl
@[simp] theorem advance_dec_cause (n : Nat) (s : State) : (advance n s).dec.cause = s.dec.cause := rfl
@[simp] theorem advance_dec_inLen (n : Nat) (s : State) : (advance n s).dec.inLen = s.dec.inLen := rfl
@[simp] theorem advance_dec_inp (n : Nat) (s : State) : (advance n s).dec.inp = s.dec.inp := rfl
@[simp] theorem advance_dec_width (n : Nat) (s : State) : (advance n s).dec.width = s.dec.width := rfl
@[simp] theorem advance_dec_height (n : Nat) (s : State) : (advance n s).dec.height = s.dec.height := rfl
@[simp] theorem advance_dec_channels (n : Nat) (s : State) : (advance n s).dec.channels = s.dec.channels := rfl
@[simp] theorem advance_dec_colorspace (n : Nat) (s : State) : (advance n s).dec.colorspace = s.dec.colorspace := rfl
@[simp] theorem advance_dec_prev (n : Nat) (s : State) : (advance n s).dec.prev = s.dec.prev := rfl
@[simp] theorem advance_dec_cache (n : Nat) (s : State) : (advance n s).dec.cache = s.dec.cache := rfl
@[simp] theorem advance_dec_pos (n : Nat) (s : State) : (advance n s).dec.pos = s.dec.pos + n := rfl
@[simp] theorem advance_dec_limit (n : Nat) (s : State) : (advance n s).dec.limit = s.dec.limit := rfl
@[simp] theorem advance_dec_npix (n : Nat) (s : State) : (advance n s).dec.npix = s.dec.npix := rfl
@[simp] theorem advance_dec_out (n : Nat) (s : State) : (advance n s).dec.out = s.dec.out := rfl

/-! `latchHeader` -/

@[simp] theorem latchHeader_cfg (w h : Word) (ch cs : Byte) (s : State) : (latchHeader w h ch cs s).cfg = s.cfg := rfl
@[simp] theorem latchHeader_enc (w h : Word) (ch cs : Byte) (s : State) : (latchHeader w h ch cs s).enc = s.enc := rfl
@[simp] theorem latchHeader_imgFault (w h : Word) (ch cs : Byte) (s : State) :
    (latchHeader w h ch cs s).imgFault = s.imgFault :=
  rfl
@[simp] theorem latchHeader_agenda (w h : Word) (ch cs : Byte) (s : State) :
    (latchHeader w h ch cs s).agenda = s.agenda :=
  rfl
@[simp] theorem latchHeader_reply (w h : Word) (ch cs : Byte) (s : State) :
    (latchHeader w h ch cs s).reply = s.reply :=
  rfl
@[simp] theorem latchHeader_draws (w h : Word) (ch cs : Byte) (s : State) :
    (latchHeader w h ch cs s).draws = s.draws :=
  rfl
@[simp] theorem latchHeader_dec_phase (w h : Word) (ch cs : Byte) (s : State) :
    (latchHeader w h ch cs s).dec.phase = s.dec.phase :=
  rfl
@[simp] theorem latchHeader_dec_fault (w h : Word) (ch cs : Byte) (s : State) :
    (latchHeader w h ch cs s).dec.fault = s.dec.fault :=
  rfl
@[simp] theorem latchHeader_dec_cause (w h : Word) (ch cs : Byte) (s : State) :
    (latchHeader w h ch cs s).dec.cause = s.dec.cause :=
  rfl
@[simp] theorem latchHeader_dec_inLen (w h : Word) (ch cs : Byte) (s : State) :
    (latchHeader w h ch cs s).dec.inLen = s.dec.inLen :=
  rfl
@[simp] theorem latchHeader_dec_inp (w h : Word) (ch cs : Byte) (s : State) :
    (latchHeader w h ch cs s).dec.inp = s.dec.inp :=
  rfl
@[simp] theorem latchHeader_dec_width (w h : Word) (ch cs : Byte) (s : State) :
    (latchHeader w h ch cs s).dec.width = w :=
  rfl
@[simp] theorem latchHeader_dec_height (w h : Word) (ch cs : Byte) (s : State) :
    (latchHeader w h ch cs s).dec.height = h :=
  rfl
@[simp] theorem latchHeader_dec_channels (w h : Word) (ch cs : Byte) (s : State) :
    (latchHeader w h ch cs s).dec.channels = ch :=
  rfl
@[simp] theorem latchHeader_dec_colorspace (w h : Word) (ch cs : Byte) (s : State) :
    (latchHeader w h ch cs s).dec.colorspace = cs :=
  rfl
@[simp] theorem latchHeader_dec_prev (w h : Word) (ch cs : Byte) (s : State) :
    (latchHeader w h ch cs s).dec.prev = s.dec.prev :=
  rfl
@[simp] theorem latchHeader_dec_cache (w h : Word) (ch cs : Byte) (s : State) :
    (latchHeader w h ch cs s).dec.cache = s.dec.cache :=
  rfl
@[simp] theorem latchHeader_dec_pos (w h : Word) (ch cs : Byte) (s : State) :
    (latchHeader w h ch cs s).dec.pos = s.dec.pos :=
  rfl
@[simp] theorem latchHeader_dec_limit (w h : Word) (ch cs : Byte) (s : State) :
    (latchHeader w h ch cs s).dec.limit = s.dec.limit :=
  rfl
@[simp] theorem latchHeader_dec_npix (w h : Word) (ch cs : Byte) (s : State) :
    (latchHeader w h ch cs s).dec.npix = s.dec.npix :=
  rfl
@[simp] theorem latchHeader_dec_out (w h : Word) (ch cs : Byte) (s : State) :
    (latchHeader w h ch cs s).dec.out = s.dec.out :=
  rfl

/-! `beginScan` -/

@[simp] theorem beginScan_cfg (s : State) : (beginScan s).cfg = s.cfg := rfl
@[simp] theorem beginScan_enc (s : State) : (beginScan s).enc = s.enc := rfl
@[simp] theorem beginScan_imgFault (s : State) : (beginScan s).imgFault = s.imgFault := rfl
@[simp] theorem beginScan_agenda (s : State) : (beginScan s).agenda = s.agenda := rfl
@[simp] theorem beginScan_reply (s : State) : (beginScan s).reply = s.reply := rfl
@[simp] theorem beginScan_draws (s : State) : (beginScan s).draws = s.draws := rfl
@[simp] theorem beginScan_dec_phase (s : State) : (beginScan s).dec.phase = .body := rfl
@[simp] theorem beginScan_dec_fault (s : State) : (beginScan s).dec.fault = s.dec.fault := rfl
@[simp] theorem beginScan_dec_cause (s : State) : (beginScan s).dec.cause = s.dec.cause := rfl
@[simp] theorem beginScan_dec_inLen (s : State) : (beginScan s).dec.inLen = s.dec.inLen := rfl
@[simp] theorem beginScan_dec_inp (s : State) : (beginScan s).dec.inp = s.dec.inp := rfl
@[simp] theorem beginScan_dec_width (s : State) : (beginScan s).dec.width = s.dec.width := rfl
@[simp] theorem beginScan_dec_height (s : State) : (beginScan s).dec.height = s.dec.height := rfl
@[simp] theorem beginScan_dec_channels (s : State) : (beginScan s).dec.channels = s.dec.channels := rfl
@[simp] theorem beginScan_dec_colorspace (s : State) : (beginScan s).dec.colorspace = s.dec.colorspace := rfl
@[simp] theorem beginScan_dec_prev (s : State) : (beginScan s).dec.prev = Pixel.start := rfl
@[simp] theorem beginScan_dec_cache (s : State) : (beginScan s).dec.cache = Cache.zero := rfl
@[simp] theorem beginScan_dec_pos (s : State) : (beginScan s).dec.pos = Config.headerLength := rfl
@[simp] theorem beginScan_dec_limit (s : State) : (beginScan s).dec.limit = s.dec.inLen - Config.endLength := rfl
@[simp] theorem beginScan_dec_npix (s : State) : (beginScan s).dec.npix = 0 := rfl
@[simp] theorem beginScan_dec_out (s : State) : (beginScan s).dec.out = [] := rfl

/-! `decoderDone` -/

@[simp] theorem decoderDone_cfg (s : State) : (decoderDone s).cfg = s.cfg := rfl
@[simp] theorem decoderDone_enc (s : State) : (decoderDone s).enc = s.enc := rfl
@[simp] theorem decoderDone_imgFault (s : State) : (decoderDone s).imgFault = s.imgFault := rfl
@[simp] theorem decoderDone_agenda (s : State) : (decoderDone s).agenda = s.agenda := rfl
@[simp] theorem decoderDone_reply (s : State) : (decoderDone s).reply = s.reply := rfl
@[simp] theorem decoderDone_draws (s : State) : (decoderDone s).draws = s.draws := rfl
@[simp] theorem decoderDone_dec_phase (s : State) : (decoderDone s).dec.phase = .done := rfl
@[simp] theorem decoderDone_dec_fault (s : State) : (decoderDone s).dec.fault = s.dec.fault := rfl
@[simp] theorem decoderDone_dec_cause (s : State) : (decoderDone s).dec.cause = s.dec.cause := rfl
@[simp] theorem decoderDone_dec_inLen (s : State) : (decoderDone s).dec.inLen = s.dec.inLen := rfl
@[simp] theorem decoderDone_dec_inp (s : State) : (decoderDone s).dec.inp = s.dec.inp := rfl
@[simp] theorem decoderDone_dec_width (s : State) : (decoderDone s).dec.width = s.dec.width := rfl
@[simp] theorem decoderDone_dec_height (s : State) : (decoderDone s).dec.height = s.dec.height := rfl
@[simp] theorem decoderDone_dec_channels (s : State) : (decoderDone s).dec.channels = s.dec.channels := rfl
@[simp] theorem decoderDone_dec_colorspace (s : State) : (decoderDone s).dec.colorspace = s.dec.colorspace := rfl
@[simp] theorem decoderDone_dec_prev (s : State) : (decoderDone s).dec.prev = s.dec.prev := rfl
@[simp] theorem decoderDone_dec_cache (s : State) : (decoderDone s).dec.cache = s.dec.cache := rfl
@[simp] theorem decoderDone_dec_pos (s : State) : (decoderDone s).dec.pos = s.dec.pos := rfl
@[simp] theorem decoderDone_dec_limit (s : State) : (decoderDone s).dec.limit = s.dec.limit := rfl
@[simp] theorem decoderDone_dec_npix (s : State) : (decoderDone s).dec.npix = s.dec.npix := rfl
@[simp] theorem decoderDone_dec_out (s : State) : (decoderDone s).dec.out = s.dec.out := rfl

/-! `raiseDec` -/

@[simp] theorem raiseDec_cfg (k : FaultKind) (c : Cause) (s : State) : (raiseDec k c s).cfg = s.cfg := rfl
@[simp] theorem raiseDec_enc (k : FaultKind) (c : Cause) (s : State) : (raiseDec k c s).enc = s.enc := rfl
@[simp] theorem raiseDec_imgFault (k : FaultKind) (c : Cause) (s : State) : (raiseDec k c s).imgFault = s.imgFault :=
  rfl
@[simp] theorem raiseDec_agenda (k : FaultKind) (c : Cause) (s : State) : (raiseDec k c s).agenda = s.agenda := rfl
@[simp] theorem raiseDec_reply (k : FaultKind) (c : Cause) (s : State) : (raiseDec k c s).reply = s.reply := rfl
@[simp] theorem raiseDec_draws (k : FaultKind) (c : Cause) (s : State) : (raiseDec k c s).draws = s.draws := rfl
@[simp] theorem raiseDec_dec_phase (k : FaultKind) (c : Cause) (s : State) : (raiseDec k c s).dec.phase = .fault :=
  rfl
@[simp] theorem raiseDec_dec_fault (k : FaultKind) (c : Cause) (s : State) : (raiseDec k c s).dec.fault = k := rfl
@[simp] theorem raiseDec_dec_cause (k : FaultKind) (c : Cause) (s : State) : (raiseDec k c s).dec.cause = c := rfl
@[simp] theorem raiseDec_dec_inLen (k : FaultKind) (c : Cause) (s : State) :
    (raiseDec k c s).dec.inLen = s.dec.inLen :=
  rfl
@[simp] theorem raiseDec_dec_inp (k : FaultKind) (c : Cause) (s : State) : (raiseDec k c s).dec.inp = s.dec.inp := rfl
@[simp] theorem raiseDec_dec_width (k : FaultKind) (c : Cause) (s : State) :
    (raiseDec k c s).dec.width = s.dec.width :=
  rfl
@[simp] theorem raiseDec_dec_height (k : FaultKind) (c : Cause) (s : State) :
    (raiseDec k c s).dec.height = s.dec.height :=
  rfl
@[simp] theorem raiseDec_dec_channels (k : FaultKind) (c : Cause) (s : State) :
    (raiseDec k c s).dec.channels = s.dec.channels :=
  rfl
@[simp] theorem raiseDec_dec_colorspace (k : FaultKind) (c : Cause) (s : State) :
    (raiseDec k c s).dec.colorspace = s.dec.colorspace :=
  rfl
@[simp] theorem raiseDec_dec_prev (k : FaultKind) (c : Cause) (s : State) : (raiseDec k c s).dec.prev = s.dec.prev :=
  rfl
@[simp] theorem raiseDec_dec_cache (k : FaultKind) (c : Cause) (s : State) :
    (raiseDec k c s).dec.cache = s.dec.cache :=
  rfl
@[simp] theorem raiseDec_dec_pos (k : FaultKind) (c : Cause) (s : State) : (raiseDec k c s).dec.pos = s.dec.pos := rfl
@[simp] theorem raiseDec_dec_limit (k : FaultKind) (c : Cause) (s : State) :
    (raiseDec k c s).dec.limit = s.dec.limit :=
  rfl
@[simp] theorem raiseDec_dec_npix (k : FaultKind) (c : Cause) (s : State) : (raiseDec k c s).dec.npix = s.dec.npix :=
  rfl
@[simp] theorem raiseDec_dec_out (k : FaultKind) (c : Cause) (s : State) : (raiseDec k c s).dec.out = s.dec.out := rfl

/-! `clearDecFault` -/

@[simp] theorem clearDecFault_cfg (s : State) : (clearDecFault s).cfg = s.cfg := rfl
@[simp] theorem clearDecFault_enc (s : State) : (clearDecFault s).enc = s.enc := rfl
@[simp] theorem clearDecFault_imgFault (s : State) : (clearDecFault s).imgFault = s.imgFault := rfl
@[simp] theorem clearDecFault_agenda (s : State) : (clearDecFault s).agenda = s.agenda := rfl
@[simp] theorem clearDecFault_reply (s : State) : (clearDecFault s).reply = s.reply := rfl
@[simp] theorem clearDecFault_draws (s : State) : (clearDecFault s).draws = s.draws := rfl
@[simp] theorem clearDecFault_dec_phase (s : State) : (clearDecFault s).dec.phase = s.dec.phase := rfl
@[simp] theorem clearDecFault_dec_fault (s : State) : (clearDecFault s).dec.fault = .none := rfl
@[simp] theorem clearDecFault_dec_cause (s : State) : (clearDecFault s).dec.cause = .none := rfl
@[simp] theorem clearDecFault_dec_inLen (s : State) : (clearDecFault s).dec.inLen = s.dec.inLen := rfl
@[simp] theorem clearDecFault_dec_inp (s : State) : (clearDecFault s).dec.inp = s.dec.inp := rfl
@[simp] theorem clearDecFault_dec_width (s : State) : (clearDecFault s).dec.width = s.dec.width := rfl
@[simp] theorem clearDecFault_dec_height (s : State) : (clearDecFault s).dec.height = s.dec.height := rfl
@[simp] theorem clearDecFault_dec_channels (s : State) : (clearDecFault s).dec.channels = s.dec.channels := rfl
@[simp] theorem clearDecFault_dec_colorspace (s : State) : (clearDecFault s).dec.colorspace = s.dec.colorspace := rfl
@[simp] theorem clearDecFault_dec_prev (s : State) : (clearDecFault s).dec.prev = s.dec.prev := rfl
@[simp] theorem clearDecFault_dec_cache (s : State) : (clearDecFault s).dec.cache = s.dec.cache := rfl
@[simp] theorem clearDecFault_dec_pos (s : State) : (clearDecFault s).dec.pos = s.dec.pos := rfl
@[simp] theorem clearDecFault_dec_limit (s : State) : (clearDecFault s).dec.limit = s.dec.limit := rfl
@[simp] theorem clearDecFault_dec_npix (s : State) : (clearDecFault s).dec.npix = s.dec.npix := rfl
@[simp] theorem clearDecFault_dec_out (s : State) : (clearDecFault s).dec.out = s.dec.out := rfl

/-! `setRunPrev` -/

@[simp] theorem setRunPrev_cfg (n : Nat) (p : Pixel) (s : State) : (setRunPrev n p s).cfg = s.cfg := rfl
@[simp] theorem setRunPrev_dec (n : Nat) (p : Pixel) (s : State) : (setRunPrev n p s).dec = s.dec := rfl
@[simp] theorem setRunPrev_imgFault (n : Nat) (p : Pixel) (s : State) : (setRunPrev n p s).imgFault = s.imgFault :=
  rfl
@[simp] theorem setRunPrev_agenda (n : Nat) (p : Pixel) (s : State) : (setRunPrev n p s).agenda = s.agenda := rfl
@[simp] theorem setRunPrev_reply (n : Nat) (p : Pixel) (s : State) : (setRunPrev n p s).reply = s.reply := rfl
@[simp] theorem setRunPrev_draws (n : Nat) (p : Pixel) (s : State) : (setRunPrev n p s).draws = s.draws := rfl
@[simp] theorem setRunPrev_enc_phase (n : Nat) (p : Pixel) (s : State) : (setRunPrev n p s).enc.phase = s.enc.phase :=
  rfl
@[simp] theorem setRunPrev_enc_widthReg (n : Nat) (p : Pixel) (s : State) :
    (setRunPrev n p s).enc.widthReg = s.enc.widthReg :=
  rfl
@[simp] theorem setRunPrev_enc_heightReg (n : Nat) (p : Pixel) (s : State) :
    (setRunPrev n p s).enc.heightReg = s.enc.heightReg :=
  rfl
@[simp] theorem setRunPrev_enc_fmtReg (n : Nat) (p : Pixel) (s : State) :
    (setRunPrev n p s).enc.fmtReg = s.enc.fmtReg :=
  rfl
@[simp] theorem setRunPrev_enc_width (n : Nat) (p : Pixel) (s : State) : (setRunPrev n p s).enc.width = s.enc.width :=
  rfl
@[simp] theorem setRunPrev_enc_height (n : Nat) (p : Pixel) (s : State) :
    (setRunPrev n p s).enc.height = s.enc.height :=
  rfl
@[simp] theorem setRunPrev_enc_channels (n : Nat) (p : Pixel) (s : State) :
    (setRunPrev n p s).enc.channels = s.enc.channels :=
  rfl
@[simp] theorem setRunPrev_enc_colorspace (n : Nat) (p : Pixel) (s : State) :
    (setRunPrev n p s).enc.colorspace = s.enc.colorspace :=
  rfl
@[simp] theorem setRunPrev_enc_prev (n : Nat) (p : Pixel) (s : State) : (setRunPrev n p s).enc.prev = p := rfl
@[simp] theorem setRunPrev_enc_cache (n : Nat) (p : Pixel) (s : State) : (setRunPrev n p s).enc.cache = s.enc.cache :=
  rfl
@[simp] theorem setRunPrev_enc_run (n : Nat) (p : Pixel) (s : State) : (setRunPrev n p s).enc.run = n := rfl
@[simp] theorem setRunPrev_enc_idx (n : Nat) (p : Pixel) (s : State) : (setRunPrev n p s).enc.idx = s.enc.idx := rfl
@[simp] theorem setRunPrev_enc_pix (n : Nat) (p : Pixel) (s : State) : (setRunPrev n p s).enc.pix = s.enc.pix := rfl
@[simp] theorem setRunPrev_enc_out (n : Nat) (p : Pixel) (s : State) : (setRunPrev n p s).enc.out = s.enc.out := rfl

/-! `clearRun` -/

@[simp] theorem clearRun_cfg (s : State) : (clearRun s).cfg = s.cfg := rfl
@[simp] theorem clearRun_dec (s : State) : (clearRun s).dec = s.dec := rfl
@[simp] theorem clearRun_imgFault (s : State) : (clearRun s).imgFault = s.imgFault := rfl
@[simp] theorem clearRun_agenda (s : State) : (clearRun s).agenda = s.agenda := rfl
@[simp] theorem clearRun_reply (s : State) : (clearRun s).reply = s.reply := rfl
@[simp] theorem clearRun_draws (s : State) : (clearRun s).draws = s.draws := rfl
@[simp] theorem clearRun_enc_phase (s : State) : (clearRun s).enc.phase = s.enc.phase := rfl
@[simp] theorem clearRun_enc_widthReg (s : State) : (clearRun s).enc.widthReg = s.enc.widthReg := rfl
@[simp] theorem clearRun_enc_heightReg (s : State) : (clearRun s).enc.heightReg = s.enc.heightReg := rfl
@[simp] theorem clearRun_enc_fmtReg (s : State) : (clearRun s).enc.fmtReg = s.enc.fmtReg := rfl
@[simp] theorem clearRun_enc_width (s : State) : (clearRun s).enc.width = s.enc.width := rfl
@[simp] theorem clearRun_enc_height (s : State) : (clearRun s).enc.height = s.enc.height := rfl
@[simp] theorem clearRun_enc_channels (s : State) : (clearRun s).enc.channels = s.enc.channels := rfl
@[simp] theorem clearRun_enc_colorspace (s : State) : (clearRun s).enc.colorspace = s.enc.colorspace := rfl
@[simp] theorem clearRun_enc_prev (s : State) : (clearRun s).enc.prev = s.enc.prev := rfl
@[simp] theorem clearRun_enc_cache (s : State) : (clearRun s).enc.cache = s.enc.cache := rfl
@[simp] theorem clearRun_enc_run (s : State) : (clearRun s).enc.run = 0 := rfl
@[simp] theorem clearRun_enc_idx (s : State) : (clearRun s).enc.idx = s.enc.idx := rfl
@[simp] theorem clearRun_enc_pix (s : State) : (clearRun s).enc.pix = s.enc.pix := rfl
@[simp] theorem clearRun_enc_out (s : State) : (clearRun s).enc.out = s.enc.out := rfl

/-! `encRemember` -/

@[simp] theorem encRemember_cfg (p : Pixel) (s : State) : (encRemember p s).cfg = s.cfg := rfl
@[simp] theorem encRemember_dec (p : Pixel) (s : State) : (encRemember p s).dec = s.dec := rfl
@[simp] theorem encRemember_imgFault (p : Pixel) (s : State) : (encRemember p s).imgFault = s.imgFault := rfl
@[simp] theorem encRemember_agenda (p : Pixel) (s : State) : (encRemember p s).agenda = s.agenda := rfl
@[simp] theorem encRemember_reply (p : Pixel) (s : State) : (encRemember p s).reply = s.reply := rfl
@[simp] theorem encRemember_draws (p : Pixel) (s : State) : (encRemember p s).draws = s.draws := rfl
@[simp] theorem encRemember_enc_phase (p : Pixel) (s : State) : (encRemember p s).enc.phase = s.enc.phase := rfl
@[simp] theorem encRemember_enc_widthReg (p : Pixel) (s : State) : (encRemember p s).enc.widthReg = s.enc.widthReg :=
  rfl
@[simp] theorem encRemember_enc_heightReg (p : Pixel) (s : State) :
    (encRemember p s).enc.heightReg = s.enc.heightReg :=
  rfl
@[simp] theorem encRemember_enc_fmtReg (p : Pixel) (s : State) : (encRemember p s).enc.fmtReg = s.enc.fmtReg := rfl
@[simp] theorem encRemember_enc_width (p : Pixel) (s : State) : (encRemember p s).enc.width = s.enc.width := rfl
@[simp] theorem encRemember_enc_height (p : Pixel) (s : State) : (encRemember p s).enc.height = s.enc.height := rfl
@[simp] theorem encRemember_enc_channels (p : Pixel) (s : State) : (encRemember p s).enc.channels = s.enc.channels :=
  rfl
@[simp] theorem encRemember_enc_colorspace (p : Pixel) (s : State) :
    (encRemember p s).enc.colorspace = s.enc.colorspace :=
  rfl
@[simp] theorem encRemember_enc_prev (p : Pixel) (s : State) : (encRemember p s).enc.prev = s.enc.prev := rfl
@[simp] theorem encRemember_enc_cache (p : Pixel) (s : State) :
    (encRemember p s).enc.cache = remember s.enc.cache p :=
  rfl
@[simp] theorem encRemember_enc_run (p : Pixel) (s : State) : (encRemember p s).enc.run = s.enc.run := rfl
@[simp] theorem encRemember_enc_idx (p : Pixel) (s : State) : (encRemember p s).enc.idx = s.enc.idx := rfl
@[simp] theorem encRemember_enc_pix (p : Pixel) (s : State) : (encRemember p s).enc.pix = s.enc.pix := rfl
@[simp] theorem encRemember_enc_out (p : Pixel) (s : State) : (encRemember p s).enc.out = s.enc.out := rfl

/-! `nextPixel` -/

@[simp] theorem nextPixel_cfg (s : State) : (nextPixel s).cfg = s.cfg := rfl
@[simp] theorem nextPixel_dec (s : State) : (nextPixel s).dec = s.dec := rfl
@[simp] theorem nextPixel_imgFault (s : State) : (nextPixel s).imgFault = s.imgFault := rfl
@[simp] theorem nextPixel_agenda (s : State) : (nextPixel s).agenda = s.agenda := rfl
@[simp] theorem nextPixel_reply (s : State) : (nextPixel s).reply = s.reply := rfl
@[simp] theorem nextPixel_draws (s : State) : (nextPixel s).draws = s.draws := rfl
@[simp] theorem nextPixel_enc_phase (s : State) : (nextPixel s).enc.phase = s.enc.phase := rfl
@[simp] theorem nextPixel_enc_widthReg (s : State) : (nextPixel s).enc.widthReg = s.enc.widthReg := rfl
@[simp] theorem nextPixel_enc_heightReg (s : State) : (nextPixel s).enc.heightReg = s.enc.heightReg := rfl
@[simp] theorem nextPixel_enc_fmtReg (s : State) : (nextPixel s).enc.fmtReg = s.enc.fmtReg := rfl
@[simp] theorem nextPixel_enc_width (s : State) : (nextPixel s).enc.width = s.enc.width := rfl
@[simp] theorem nextPixel_enc_height (s : State) : (nextPixel s).enc.height = s.enc.height := rfl
@[simp] theorem nextPixel_enc_channels (s : State) : (nextPixel s).enc.channels = s.enc.channels := rfl
@[simp] theorem nextPixel_enc_colorspace (s : State) : (nextPixel s).enc.colorspace = s.enc.colorspace := rfl
@[simp] theorem nextPixel_enc_prev (s : State) : (nextPixel s).enc.prev = s.enc.prev := rfl
@[simp] theorem nextPixel_enc_cache (s : State) : (nextPixel s).enc.cache = s.enc.cache := rfl
@[simp] theorem nextPixel_enc_run (s : State) : (nextPixel s).enc.run = s.enc.run := rfl
@[simp] theorem nextPixel_enc_idx (s : State) : (nextPixel s).enc.idx = s.enc.idx + 1 := rfl
@[simp] theorem nextPixel_enc_pix (s : State) : (nextPixel s).enc.pix = s.enc.pix := rfl
@[simp] theorem nextPixel_enc_out (s : State) : (nextPixel s).enc.out = s.enc.out := rfl

/-! `encoderDone` -/

@[simp] theorem encoderDone_cfg (s : State) : (encoderDone s).cfg = s.cfg := rfl
@[simp] theorem encoderDone_dec (s : State) : (encoderDone s).dec = s.dec := rfl
@[simp] theorem encoderDone_imgFault (s : State) : (encoderDone s).imgFault = s.imgFault := rfl
@[simp] theorem encoderDone_agenda (s : State) : (encoderDone s).agenda = s.agenda := rfl
@[simp] theorem encoderDone_reply (s : State) : (encoderDone s).reply = s.reply := rfl
@[simp] theorem encoderDone_draws (s : State) : (encoderDone s).draws = s.draws := rfl
@[simp] theorem encoderDone_enc_phase (s : State) : (encoderDone s).enc.phase = .done := rfl
@[simp] theorem encoderDone_enc_widthReg (s : State) : (encoderDone s).enc.widthReg = s.enc.widthReg := rfl
@[simp] theorem encoderDone_enc_heightReg (s : State) : (encoderDone s).enc.heightReg = s.enc.heightReg := rfl
@[simp] theorem encoderDone_enc_fmtReg (s : State) : (encoderDone s).enc.fmtReg = s.enc.fmtReg := rfl
@[simp] theorem encoderDone_enc_width (s : State) : (encoderDone s).enc.width = s.enc.width := rfl
@[simp] theorem encoderDone_enc_height (s : State) : (encoderDone s).enc.height = s.enc.height := rfl
@[simp] theorem encoderDone_enc_channels (s : State) : (encoderDone s).enc.channels = s.enc.channels := rfl
@[simp] theorem encoderDone_enc_colorspace (s : State) : (encoderDone s).enc.colorspace = s.enc.colorspace := rfl
@[simp] theorem encoderDone_enc_prev (s : State) : (encoderDone s).enc.prev = s.enc.prev := rfl
@[simp] theorem encoderDone_enc_cache (s : State) : (encoderDone s).enc.cache = s.enc.cache := rfl
@[simp] theorem encoderDone_enc_run (s : State) : (encoderDone s).enc.run = s.enc.run := rfl
@[simp] theorem encoderDone_enc_idx (s : State) : (encoderDone s).enc.idx = s.enc.idx := rfl
@[simp] theorem encoderDone_enc_pix (s : State) : (encoderDone s).enc.pix = s.enc.pix := rfl
@[simp] theorem encoderDone_enc_out (s : State) : (encoderDone s).enc.out = s.enc.out := rfl

/-! `beginEncode` -/

@[simp] theorem beginEncode_cfg (s : State) : (beginEncode s).cfg = s.cfg := rfl
@[simp] theorem beginEncode_dec (s : State) : (beginEncode s).dec = s.dec := rfl
@[simp] theorem beginEncode_imgFault (s : State) : (beginEncode s).imgFault = s.imgFault := rfl
@[simp] theorem beginEncode_agenda (s : State) : (beginEncode s).agenda = s.agenda := rfl
@[simp] theorem beginEncode_reply (s : State) : (beginEncode s).reply = s.reply := rfl
@[simp] theorem beginEncode_draws (s : State) : (beginEncode s).draws = s.draws := rfl
@[simp] theorem beginEncode_enc_phase (s : State) : (beginEncode s).enc.phase = .body := rfl
@[simp] theorem beginEncode_enc_widthReg (s : State) : (beginEncode s).enc.widthReg = s.enc.widthReg := rfl
@[simp] theorem beginEncode_enc_heightReg (s : State) : (beginEncode s).enc.heightReg = s.enc.heightReg := rfl
@[simp] theorem beginEncode_enc_fmtReg (s : State) : (beginEncode s).enc.fmtReg = s.enc.fmtReg := rfl
@[simp] theorem beginEncode_enc_width (s : State) : (beginEncode s).enc.width = s.enc.widthReg := rfl
@[simp] theorem beginEncode_enc_height (s : State) : (beginEncode s).enc.height = s.enc.heightReg := rfl
@[simp] theorem beginEncode_enc_channels (s : State) : (beginEncode s).enc.channels = fmtChannels s.enc.fmtReg := rfl
@[simp] theorem beginEncode_enc_colorspace (s : State) :
    (beginEncode s).enc.colorspace = fmtColorspace s.enc.fmtReg :=
  rfl
@[simp] theorem beginEncode_enc_prev (s : State) : (beginEncode s).enc.prev = Pixel.start := rfl
@[simp] theorem beginEncode_enc_cache (s : State) : (beginEncode s).enc.cache = Cache.zero := rfl
@[simp] theorem beginEncode_enc_run (s : State) : (beginEncode s).enc.run = 0 := rfl
@[simp] theorem beginEncode_enc_idx (s : State) : (beginEncode s).enc.idx = 0 := rfl
@[simp] theorem beginEncode_enc_pix (s : State) : (beginEncode s).enc.pix = s.enc.pix := rfl
@[simp] theorem beginEncode_enc_out (s : State) : (beginEncode s).enc.out = [] := rfl

/-! `raiseImg` -/

@[simp] theorem raiseImg_cfg (k : FaultKind) (s : State) : (raiseImg k s).cfg = s.cfg := rfl
@[simp] theorem raiseImg_enc (k : FaultKind) (s : State) : (raiseImg k s).enc = s.enc := rfl
@[simp] theorem raiseImg_dec (k : FaultKind) (s : State) : (raiseImg k s).dec = s.dec := rfl
@[simp] theorem raiseImg_imgFault (k : FaultKind) (s : State) : (raiseImg k s).imgFault = k := rfl
@[simp] theorem raiseImg_agenda (k : FaultKind) (s : State) : (raiseImg k s).agenda = s.agenda := rfl
@[simp] theorem raiseImg_reply (k : FaultKind) (s : State) : (raiseImg k s).reply = none := rfl
@[simp] theorem raiseImg_draws (k : FaultKind) (s : State) : (raiseImg k s).draws = s.draws := rfl

/-! `giveImage` -/

@[simp] theorem giveImage_cfg (i : Image) (s : State) : (giveImage i s).cfg = s.cfg := rfl
@[simp] theorem giveImage_enc (i : Image) (s : State) : (giveImage i s).enc = s.enc := rfl
@[simp] theorem giveImage_dec (i : Image) (s : State) : (giveImage i s).dec = s.dec := rfl
@[simp] theorem giveImage_imgFault (i : Image) (s : State) : (giveImage i s).imgFault = .none := rfl
@[simp] theorem giveImage_agenda (i : Image) (s : State) : (giveImage i s).agenda = s.agenda := rfl
@[simp] theorem giveImage_reply (i : Image) (s : State) : (giveImage i s).reply = some (.image i) := rfl
@[simp] theorem giveImage_draws (i : Image) (s : State) : (giveImage i s).draws = s.draws := rfl

/-! `answer` -/

@[simp] theorem answer_cfg (r : Reply) (s : State) : (answer r s).cfg = s.cfg := rfl
@[simp] theorem answer_enc (r : Reply) (s : State) : (answer r s).enc = s.enc := rfl
@[simp] theorem answer_dec (r : Reply) (s : State) : (answer r s).dec = s.dec := rfl
@[simp] theorem answer_imgFault (r : Reply) (s : State) : (answer r s).imgFault = s.imgFault := rfl
@[simp] theorem answer_agenda (r : Reply) (s : State) : (answer r s).agenda = s.agenda := rfl
@[simp] theorem answer_reply (r : Reply) (s : State) : (answer r s).reply = some r := rfl
@[simp] theorem answer_draws (r : Reply) (s : State) : (answer r s).draws = s.draws := rfl

/-! `noAnswer` -/

@[simp] theorem noAnswer_cfg (s : State) : (noAnswer s).cfg = s.cfg := rfl
@[simp] theorem noAnswer_enc (s : State) : (noAnswer s).enc = s.enc := rfl
@[simp] theorem noAnswer_dec (s : State) : (noAnswer s).dec = s.dec := rfl
@[simp] theorem noAnswer_imgFault (s : State) : (noAnswer s).imgFault = s.imgFault := rfl
@[simp] theorem noAnswer_agenda (s : State) : (noAnswer s).agenda = s.agenda := rfl
@[simp] theorem noAnswer_reply (s : State) : (noAnswer s).reply = none := rfl
@[simp] theorem noAnswer_draws (s : State) : (noAnswer s).draws = s.draws := rfl

/-! `answerFree` -/

@[simp] theorem answerFree_cfg (s : State) : (answerFree s).cfg = s.cfg := rfl
@[simp] theorem answerFree_enc (s : State) : (answerFree s).enc = s.enc := rfl
@[simp] theorem answerFree_dec (s : State) : (answerFree s).dec = s.dec := rfl
@[simp] theorem answerFree_imgFault (s : State) : (answerFree s).imgFault = s.imgFault := rfl
@[simp] theorem answerFree_agenda (s : State) : (answerFree s).agenda = s.agenda := rfl
@[simp] theorem answerFree_reply (s : State) : (answerFree s).reply = some (.value (Config.freeValue s.draws)) := rfl
@[simp] theorem answerFree_draws (s : State) : (answerFree s).draws = s.draws + 1 := rfl

/-! `popTurn` -/

@[simp] theorem popTurn_cfg (s : State) : (popTurn s).cfg = s.cfg := rfl
@[simp] theorem popTurn_enc (s : State) : (popTurn s).enc = s.enc := rfl
@[simp] theorem popTurn_dec (s : State) : (popTurn s).dec = s.dec := rfl
@[simp] theorem popTurn_imgFault (s : State) : (popTurn s).imgFault = s.imgFault := rfl
@[simp] theorem popTurn_agenda (s : State) : (popTurn s).agenda = s.agenda.tail := rfl
@[simp] theorem popTurn_reply (s : State) : (popTurn s).reply = s.reply := rfl
@[simp] theorem popTurn_draws (s : State) : (popTurn s).draws = s.draws := rfl

end Sys2Proof.Machine
end

