-- ==== Sys2Proof/Laws/Ops.lean ====
section
/-! SUPPORT. What each shared operation can do, said once: the cache, a run, a chunk, a sequence, an append, the
classifier. -/

namespace Sys2Proof.Machine

/-- A pixel remembered is in the slot of its hash. -/
@[simp] theorem slot_remember_same (cache : Cache) (p : Pixel) : slot (remember cache p) (pixelHash p) = p := by
  simp [slot, remember]

/-- Remembering a pixel leaves every other slot alone. -/
theorem slot_remember_other (cache : Cache) {p : Pixel} {k : Fin 64} (h : k ≠ pixelHash p) :
    slot (remember cache p) k = slot cache k := by
  have hv : (pixelHash p).val ≠ k.val := fun e => h (Fin.ext e.symm)
  simp [slot, remember, hv]

/-- Every slot of the initial cache. -/
@[simp] theorem slot_zero (k : Fin 64) : slot Cache.zero k = Pixel.zero := by
  simp [slot, Cache.zero]

/-- Caches with equal slots are equal. -/
theorem Cache.ext_slot {c c' : Cache} (h : ∀ k, slot c k = slot c' k) : c = c' := by
  apply Vector.ext
  intro i hi
  exact h ⟨i, hi⟩

/-- Remembering a pixel its slot already holds changes nothing (R94's note on Index). -/
theorem remember_of_hit {cache : Cache} {p : Pixel} (h : slot cache (pixelHash p) = p) : remember cache p = cache := by
  refine Cache.ext_slot fun k => ?_
  by_cases hk : k = pixelHash p
  · subst hk; rw [slot_remember_same, h]
  · exact slot_remember_other cache hk

/-- Remembering twice is remembering once (R123, D23). -/
@[simp] theorem remember_remember (cache : Cache) (p : Pixel) : remember (remember cache p) p = remember cache p :=
  remember_of_hit (slot_remember_same cache p)

/-- Full equality is equality of pixels (R7, R74). -/
theorem eq4_iff (p q : Pixel) : eq4 p q = true ↔ p = q := by
  cases p; cases q
  simp [eq4, and_assoc]

/-- What a run does, all at once: the copies, the count, one cache write. -/
theorem produceRun_eq (n : Nat) (s : State) :
    produceRun n s =
      { s with
        dec :=
          { s.dec with
            out := s.dec.out ++ List.replicate n s.dec.prev
            npix := s.dec.npix + n
            cache := if n = 0 then s.dec.cache else remember s.dec.cache s.dec.prev } } := by
  induction n generalizing s with
  | zero => simp [produceRun]
  | succ n ih =>
    rw [produceRun, ih]
    simp only [produce, State.mk.injEq, Decoder.mk.injEq, true_and, and_true, List.replicate_succ, List.append_assoc,
      List.singleton_append, remember_remember, ite_self]
    simp
    omega

/-- What a chunk can do: one pixel produced, or a run of the previous one; then DEC.POS moves. -/
theorem exec_chunk {i : Instr} (h : i.place = .body) (s : State) :
    (∃ p, exec i s = .next (advance i.length (produce p s))) ∨
      ∃ n, i = .run n ∧ exec i s = .next (advance 1 (produceRun n s)) := by
  cases i with
  | rgb r g b => exact .inl ⟨_, rfl⟩
  | rgba r g b a => exact .inl ⟨_, rfl⟩
  | diff dr dg db => exact .inl ⟨_, rfl⟩
  | index k => exact .inl ⟨_, rfl⟩
  | luma dg x y => exact .inl ⟨_, rfl⟩
  | run n => exact .inr ⟨n, rfl, rfl⟩
  | header w hh ch cs => cases h
  | endMark => cases h

/-- A sequence goes on only if both parts do. -/
theorem andThen_eq_next {r : Result} {f : State → Result} {t : State} :
    andThen r f = .next t ↔ ∃ u, r = .next u ∧ f u = .next t := by
  cases r <;> simp [andThen]

/-- What `emit` can do. -/
theorem emit_eq_next {bs : List Byte} {s t : State} :
    emit bs s = .next t ↔
      Config.exceeds s.cfg.maxStream (s.enc.out.length + bs.length) = false ∧
        t = { s with enc := { s.enc with out := s.enc.out ++ bs } } := by
  unfold emit
  split
  · simp [*]
  · simp [*, eq_comm]

/-- A bound that is not set, or not passed, refuses nothing (R6). -/
theorem exceeds_eq_false {o : Option Nat} {n : Nat} (h : ∀ m, o = some m → n ≤ m) : Config.exceeds o n = false := by
  cases o with
  | none => rfl
  | some m => simp [Config.exceeds, h m rfl]

/-- What fits MAX_STREAM is appended (R33). -/
theorem emit_of_fits {bs : List Byte} {s : State}
    (h : ∀ m, s.cfg.maxStream = some m → s.enc.out.length + bs.length ≤ m) :
    emit bs s = .next { s with enc := { s.enc with out := s.enc.out ++ bs } } :=
  emit_eq_next.2 ⟨exceeds_eq_false h, rfl⟩

/-- The legal CHANNELS and COLORSPACE values (R23). -/
theorem legalFormat_iff (ch cs : Byte) : legalFormat ch cs = true ↔ (ch = 3 ∨ ch = 4) ∧ (cs = 0 ∨ cs = 1) := by
  simp only [legalFormat, legalChannels, legalColorspace, Bool.and_eq_true, Bool.or_eq_true, beq_iff_eq]

/-! ## What the invariants need of the cache -/

theorem cacheHashed_zero : CacheHashed Cache.zero := fun k => .inl (slot_zero k)

/-- Remembering keeps every pixel in the slot of its hash. -/
theorem cacheHashed_remember {cache : Cache} (h : CacheHashed cache) (p : Pixel) : CacheHashed (remember cache p) := by
  intro k
  by_cases hk : k = pixelHash p
  · subst hk; right; simp
  · rw [slot_remember_other _ hk]; exact h k

/-- A pixel just remembered is seen. -/
theorem prevSeen_remember (cache : Cache) (p : Pixel) : PrevSeen p (remember cache p) := .inr (by simp)

/-- A chunk is one to five bytes long (R5). -/
theorem chunk_length {i : Instr} (hp : i.place = .body) : 1 ≤ i.length ∧ i.length ≤ 5 := by
  cases i <;> first | exact ⟨by decide, by decide⟩ | (simp only [Instr.length]; omega) | cases hp

/-! ## The classifier -/

/-- Step 4 of the decision order: the three cases (R84 to R86). -/
theorem classifyDeltas_cases (cur : Pixel) (dr dg db : Int) :
    (fitsDiff dr dg db = true ∧ classifyDeltas cur dr dg db = .diff dr dg db) ∨
      (fitsDiff dr dg db = false ∧ fitsLuma dr dg db = true ∧
        classifyDeltas cur dr dg db = .luma dg (dr - dg) (db - dg)) ∨
      (fitsDiff dr dg db = false ∧ fitsLuma dr dg db = false ∧ classifyDeltas cur dr dg db = .rgb cur.r cur.g cur.b) := by
  unfold classifyDeltas
  cases fitsDiff dr dg db <;> cases fitsLuma dr dg db <;> simp

/-- An Index verdict names the pixel's own slot, which holds it (R82). -/
theorem classify_index {tie : DiffTie} {cur prev : Pixel} {cache : Cache} {k : Fin 64}
    (h : classify tie cur prev cache = .index k) : k = pixelHash cur ∧ slot cache (pixelHash cur) = cur := by
  unfold classify at h
  split at h
  · cases h
  · split at h
    · rename_i hh
      cases h
      exact ⟨rfl, ((eq4_iff _ _).1 hh).symm⟩
    · split at h
      · cases h
      · simp only [difference] at h
        rcases classifyDeltas_cases cur (sdiff8 tie cur.r prev.r) (sdiff8 tie cur.g prev.g) (sdiff8 tie cur.b prev.b)
          with ⟨_, e⟩ | ⟨_, _, e⟩ | ⟨_, _, e⟩ <;> (rw [e] at h; cases h)

/-- A Run verdict means the pixel is the previous one (R81). -/
theorem classify_run {tie : DiffTie} {cur prev : Pixel} {cache : Cache} (h : classify tie cur prev cache = .run) :
    cur = prev := by
  unfold classify at h
  split at h
  · rename_i hh; exact (eq4_iff _ _).1 hh
  · split at h
    · cases h
    · split at h
      · cases h
      · simp only [difference] at h
        rcases classifyDeltas_cases cur (sdiff8 tie cur.r prev.r) (sdiff8 tie cur.g prev.g) (sdiff8 tie cur.b prev.b)
          with ⟨_, e⟩ | ⟨_, _, e⟩ | ⟨_, _, e⟩ <;> (rw [e] at h; cases h)

/-- Leaving out the write on Index leaves the cache the write would have left (R94). -/
theorem rememberUnlessIndex_eq {v : Verdict} {cur : Pixel} {s : State}
    (hv : ∀ k, v = .index k → slot s.enc.cache (pixelHash cur) = cur) :
    rememberUnlessIndex v cur s = encRemember cur s := by
  cases v with
  | index k =>
    have := remember_of_hit (hv k rfl)
    simp [rememberUnlessIndex, encRemember, this]
  | _ => rfl

end Sys2Proof.Machine
end

