-- ==== Sys2Proof/Laws/PerInstr.lean ====
section
/-! SUPPORT. Statements made once for every instruction as syntax: a unit's encoding has the unit's length
(30_encoding.md R48, R5). -/

namespace Sys2Proof.Laws.EncodeLength

/-- The encoding of `i` has as many bytes as `i` is long (R48). -/
def Statement (i : Instr) : Prop := (encode i).length = i.length

theorem rgb (r g b : Byte) : Statement (.rgb r g b) := rfl

theorem rgba (r g b a : Byte) : Statement (.rgba r g b a) := rfl

theorem diff (dr dg db : Int) : Statement (.diff dr dg db) := rfl

theorem index (idx : Fin 64) : Statement (.index idx) := rfl

theorem luma (dg drDg dbDg : Int) : Statement (.luma dg drDg dbDg) := rfl

theorem run (n : Nat) : Statement (.run n) := rfl

theorem header (width height : Word) (channels colorspace : Byte) :
    Statement (.header width height channels colorspace) := rfl

theorem endMark : Statement .endMark := rfl

end Sys2Proof.Laws.EncodeLength

/-- For every unit (R48). -/
theorem Sys2Proof.encode_length (i : Sys2Proof.Instr) : (Sys2Proof.encode i).length = i.length := by cases i <;> rfl
end

