-- ==== Sys2Proof/Laws/Step.lean ====
section
/-! SUPPORT. What each engine step, each START and each host request can do: one inversion lemma per transition, from
which invariants follow without unfolding it again. -/

namespace Sys2Proof.Machine

/-! ## Decoder -/

/-- What a decoder step can do. -/
theorem decoderStep_inv {s t : State} (h : decoderStep s = .next t) :
    (s.dec.phase ≠ .body ∧ t = s) ∨
    (s.dec.phase = .body ∧
      ((∃ i, fetch s.dec = .unit i ∧ exec i s = .next t) ∨
        (fetch s.dec = .malformed ∧ t = raiseDec .decodeError .malformedTag s) ∨
        (fetch s.dec = .truncated ∧ t = raiseDec .decodeError .truncatedChunk s) ∨
        (s.dec.pos = s.dec.limit ∧ s.dec.npix ≠ area s.dec.width s.dec.height ∧
          t = raiseDec .pixelCountMismatch .none s) ∨
        (s.dec.pos = s.dec.limit ∧ s.dec.npix = area s.dec.width s.dec.height ∧ t = decoderDone s))) := by
  unfold decoderStep at h
  split at h
  · rename_i hb
    refine .inr ⟨hb, ?_⟩
    split at h
    · unfold chunkStep at h
      split at h
      · cases h
      · cases h; exact .inr (.inl ⟨‹_›, rfl⟩)
      · cases h; exact .inr (.inr (.inl ⟨‹_›, rfl⟩))
      · exact .inl ⟨_, ‹_›, h⟩
    · split at h
      · rename_i hpos
        unfold decoderFinish at h
        split at h
        · cases h; exact .inr (.inr (.inr (.inl ⟨hpos, ‹_›, rfl⟩)))
        · rename_i hn
          cases h; exact .inr (.inr (.inr (.inr ⟨hpos, not_not.1 hn, rfl⟩)))
      · cases h
  · cases h; exact .inl ⟨‹_›, rfl⟩

/-- What HEADER can do. -/
theorem execHeader_inv {w h : Word} {ch cs : Byte} {s t : State} (he : execHeader w h ch cs s = .next t) :
    (t = latchHeader w h ch cs s ∧ Config.exceeds s.cfg.maxPixels (area w h) = false) ∨
    (t = raiseDec .headerError .none (latchHeader w h ch cs s) ∧ legalFormat ch cs = false ∧
      s.cfg.badFmtPolicy = .headerError) := by
  have area_case : ∀ u, checkHeaderArea (latchHeader w h ch cs s) = .next u →
      u = latchHeader w h ch cs s ∧ Config.exceeds s.cfg.maxPixels (area w h) = false := by
    intro u hu
    unfold checkHeaderArea at hu
    split at hu
    · cases hu
    · rename_i hx
      cases hu
      exact ⟨rfl, by simpa using hx⟩
  unfold execHeader at he
  simp only at he
  split at he
  · exact .inl (area_case t he)
  · rename_i hl
    split at he
    · cases he
    · rename_i hp
      cases he
      exact .inr ⟨rfl, by simpa using hl, hp⟩
    · exact .inl (area_case t he)

/-- A unit decoded at the head of a stream is a HEADER. -/
theorem decodeHeader_inv {bs rest : List Byte} {i : Instr} (h : decodeHeader bs = .ok (i, rest)) :
    ∃ w hh ch cs, i = .header w hh ch cs := by
  unfold decodeHeader at h
  split at h
  · cases h
  · split at h
    · simp only [Except.ok.injEq, Prod.mk.injEq] at h
      exact ⟨_, _, _, _, h.1.symm⟩
    · cases h

/-- A unit decoded at the tail of a stream is END. -/
theorem decodeEnd_inv {bs rest : List Byte} {i : Instr} (h : decodeEnd bs = .ok (i, rest)) : i = .endMark := by
  unfold decodeEnd at h
  split at h
  · simp only [Except.ok.injEq, Prod.mk.injEq] at h
    exact h.1.symm
  · cases h

/-- What check 4 can do, in a state where nothing has been raised. -/
theorem startCheckEnd_inv {s t : State} (hf : s.dec.fault = .none) (h : startCheckEnd s = .next t) :
    t = raiseDec .decodeError .endMarker s ∨ t = beginScan s := by
  unfold startCheckEnd at h
  simp only [hf, ne_eq, not_true_eq_false, if_false] at h
  split at h
  · cases h
  · split at h
    · rename_i hd
      rw [decodeEnd_inv hd] at h
      cases h
      exact .inr rfl
    · cases h; exact .inl rfl

/-- What a decoder START can do: end in FAULT at one of its checks, or begin the scan. -/
theorem decoderStart_inv {s t : State} (h : decoderStart s = .next t) :
    s.dec.phase ≠ .body ∧
    (t = raiseDec .headerError .none (clearDecFault s) ∨ t = raiseDec .decodeError .endMarker (clearDecFault s) ∨
      ∃ w hh ch cs,
        t = raiseDec .headerError .none (latchHeader w hh ch cs (clearDecFault s)) ∨
        t = raiseDec .decodeError .endMarker (latchHeader w hh ch cs (clearDecFault s)) ∨
        (t = beginScan (latchHeader w hh ch cs (clearDecFault s)) ∧
          Config.headerLength + Config.endLength ≤ s.dec.inLen)) := by
  unfold decoderStart at h
  split at h
  · cases h
  · rename_i hp
    refine ⟨hp, ?_⟩
    split at h
    · cases h
    · unfold startCheckMagic at h
      split at h
      · cases h; exact .inl rfl
      · split at h
        · cases h
        · split at h
          · unfold startCheckHeader at h
            split at h
            · cases h; exact .inr (.inl rfl)
            · rename_i hroom
              split at h
              · cases h
              · split at h
                · rename_i hd
                  obtain ⟨w, hh, ch, cs, rfl⟩ := decodeHeader_inv hd
                  obtain ⟨u, hu, ht⟩ := andThen_eq_next.1 h
                  refine .inr (.inr ⟨w, hh, ch, cs, ?_⟩)
                  rcases execHeader_inv hu with ⟨rfl, _⟩ | ⟨rfl, _, _⟩
                  · rcases startCheckEnd_inv rfl ht with rfl | rfl
                    · exact .inr (.inl rfl)
                    · exact .inr (.inr ⟨rfl, by simpa using hroom⟩)
                  · simp only [startCheckEnd, raiseDec_dec_fault, ne_eq, reduceCtorEq, not_false_eq_true, if_true,
                      Host.Outcome.next.injEq] at ht
                    exact .inl ht.symm
                · cases h; exact .inl rfl
          · cases h; exact .inl rfl

/-! ## Encoder -/

/-- What a pixel step can do. -/
theorem pixelStep_inv {s t : State} (h : pixelStep s = .next t) :
    ∃ cur, s.enc.pix[s.enc.idx]? = some cur ∧
      ((classify s.cfg.diffTie cur s.enc.prev s.enc.cache = .run ∧
          t = nextPixel (setRunPrev (s.enc.run + 1) cur s)) ∨
        (classify s.cfg.diffTie cur s.enc.prev s.enc.cache ≠ .run ∧ ∃ u,
          emit (flushRun s.enc.run ++ bytesOf (classify s.cfg.diffTie cur s.enc.prev s.enc.cache)) s = .next u ∧
          t = nextPixel (rememberUnlessIndex (classify s.cfg.diffTie cur s.enc.prev s.enc.cache) cur
            (setRunPrev 0 cur u)))) := by
  unfold pixelStep at h
  split at h
  · cases h
  · rename_i cur hc
    refine ⟨cur, hc, ?_⟩
    split at h
    · rename_i hv
      unfold runStep at h
      split at h
      · cases h
      · cases h; exact .inl ⟨hv, rfl⟩
    · rename_i hv
      unfold emitChunk at h
      obtain ⟨u, hu, ht⟩ := andThen_eq_next.1 h
      cases ht
      exact .inr ⟨hv, u, hu, rfl⟩

/-- What an encoder step can do. -/
theorem encoderStep_inv {s t : State} (h : encoderStep s = .next t) :
    (s.enc.phase ≠ .body ∧ t = s) ∨
    (s.enc.phase = .body ∧ s.enc.idx < area s.enc.width s.enc.height ∧ pixelStep s = .next t) ∨
    (s.enc.phase = .body ∧ s.enc.idx = area s.enc.width s.enc.height ∧ ∃ u,
      emit (flushRun s.enc.run ++ encode .endMark) s = .next u ∧ t = encoderDone (clearRun u)) := by
  unfold encoderStep at h
  split at h
  · rename_i hb
    split at h
    · exact .inr (.inl ⟨hb, ‹_›, h⟩)
    · split at h
      · unfold encoderFinish at h
        obtain ⟨u, hu, ht⟩ := andThen_eq_next.1 h
        cases ht
        exact .inr (.inr ⟨hb, ‹_›, u, hu, rfl⟩)
      · cases h
  · cases h; exact .inl ⟨‹_›, rfl⟩

/-- What an encoder START can do. -/
theorem encoderStart_inv {s t : State} (h : encoderStart s = .next t) :
    s.enc.phase ≠ .body ∧ legalFormat (fmtChannels s.enc.fmtReg) (fmtColorspace s.enc.fmtReg) = true ∧
    s.enc.pix.length = area s.enc.widthReg s.enc.heightReg ∧
    Config.exceeds s.cfg.maxPixels (area s.enc.widthReg s.enc.heightReg) = false ∧
    emit (encoderHeader (beginEncode s).enc) (beginEncode s) = .next t := by
  unfold encoderStart at h
  split at h
  · cases h
  · split at h
    · cases h
    · split at h
      · cases h
      · split at h
        · cases h
        · simp_all

/-! ## Host -/

/-- Only the reply, the draws and IMG.FAULT may differ. -/
def OnlyAnswers (s t : State) : Prop := ∃ k y n, t = { s with imgFault := k, reply := y, draws := n }

/-- A result register answers in IDLE and DONE only, and then its value (R174, log 13). -/
theorem answerResult_inv {v : Nat} {s t : State} (h : answerResult v s = .next t) :
    (s.dec.phase = .idle ∨ s.dec.phase = .done) ∧ t = answer (.value v) s := by
  unfold answerResult at h
  split at h <;> cases h
  · exact ⟨.inl ‹_›, rfl⟩
  · exact ⟨.inr ‹_›, rfl⟩

/-- A register read changes nothing but the reply and the draws (R39). -/
theorem readReg_inv {n : Nat} {s t : State} (h : readReg n s = .next t) : OnlyAnswers s t := by
  unfold readReg at h
  split at h
  all_goals
    first
      | cases h; exact ⟨_, _, _, rfl⟩
      | cases h
      | (unfold answerDiagnostic at h; split at h <;> (cases h; exact ⟨_, _, _, rfl⟩))
      | (unfold answerOutLen at h; split at h <;> (cases h; exact ⟨_, _, _, rfl⟩))
      | (obtain ⟨_, rfl⟩ := answerResult_inv h; exact ⟨_, _, _, rfl⟩)

theorem construct_inv {ps : List Pixel} {w hh : Word} {ch cs : Byte} {s t : State}
    (h : construct ps w hh ch cs s = .next t) : OnlyAnswers s t := by
  unfold construct at h
  split at h <;> (cases h; exact ⟨_, _, _, rfl⟩)

/-- What a write of a CTRL register can do: START, or only clear the reply. -/
theorem writeCtrl_inv {n v : Nat} {start : State → Result} {s t : State} (h : writeCtrl n v start s = .next t) :
    (v = 1 ∧ start (noAnswer s) = .next t) ∨ OnlyAnswers s t := by
  unfold writeCtrl at h
  split at h
  · cases h
  · split at h
    · cases h
    · split at h
      · exact .inl ⟨‹_›, h⟩
      · cases h; exact .inr ⟨_, _, _, rfl⟩

/-- The encoder's host-side registers and input written, while it is not in BODY. -/
def EncInputs (s t : State) : Prop :=
  s.enc.phase ≠ .body ∧ ∃ w hh f ps,
    t = noAnswer { s with enc := { s.enc with widthReg := w, heightReg := hh, fmtReg := f, pix := ps } }

/-- The decoder's length register or input written, while it is not in BODY. -/
def DecInputs (s t : State) : Prop :=
  s.dec.phase ≠ .body ∧ ∃ n m, (m = s.dec.inp ∨ m.wf) ∧
    t = noAnswer { s with dec := { s.dec with inLen := n, inp := m } }

theorem writeEncConfig_inv {n v : Nat} {set : Word → Encoder → Encoder} {s t : State}
    (h : writeEncConfig n v set s = .next t) :
    s.enc.phase ≠ .body ∧ t = noAnswer { s with enc := set (BitVec.ofNat 32 v) s.enc } := by
  unfold writeEncConfig at h
  split at h
  · cases h
  · split at h
    · cases h
    · cases h; exact ⟨‹_›, rfl⟩

theorem writeFmt_inv {n v : Nat} {s t : State} (h : writeFmt n v s = .next t) : EncInputs s t := by
  unfold writeFmt at h
  split at h
  · cases h
  · obtain ⟨hp, rfl⟩ := writeEncConfig_inv h
    exact ⟨hp, _, _, _, _, rfl⟩

theorem writeReg_inv {n v : Nat} {s t : State} (h : writeReg n v s = .next t) :
    decoderStart (noAnswer s) = .next t ∨ encoderStart (noAnswer s) = .next t ∨ EncInputs s t ∨ DecInputs s t ∨
      OnlyAnswers s t := by
  unfold writeReg at h
  split at h
  · cases h
  · exact (writeCtrl_inv h).elim (fun x => .inr (.inl x.2)) fun x => .inr (.inr (.inr (.inr x)))
  · obtain ⟨hp, rfl⟩ := writeEncConfig_inv h
    exact .inr (.inr (.inl ⟨hp, _, _, _, _, rfl⟩))
  · obtain ⟨hp, rfl⟩ := writeEncConfig_inv h
    exact .inr (.inr (.inl ⟨hp, _, _, _, _, rfl⟩))
  · exact .inr (.inr (.inl (writeFmt_inv h)))
  · exact (writeCtrl_inv h).elim (fun x => .inl x.2) fun x => .inr (.inr (.inr (.inr x)))
  · unfold writeInLen at h
    split at h
    · cases h
    · cases h; exact .inr (.inr (.inr (.inl ⟨‹_›, _, _, .inl rfl, rfl⟩)))
  all_goals cases h

/-- What a host request can do: an engine's START; a register or input of an engine that is not in BODY; or nothing but
the reply, the draws and IMG.FAULT. -/
theorem serve_inv {r : Request} {s t : State} (h : serve r s = .next t) :
    decoderStart (noAnswer s) = .next t ∨ encoderStart (noAnswer s) = .next t ∨ EncInputs s t ∨ DecInputs s t ∨
      OnlyAnswers s t := by
  have answers : OnlyAnswers s t → decoderStart (noAnswer s) = .next t ∨ encoderStart (noAnswer s) = .next t ∨
      EncInputs s t ∨ DecInputs s t ∨ OnlyAnswers s t := fun x => .inr (.inr (.inr (.inr x)))
  cases r with
  | readReg n => exact answers (readReg_inv h)
  | writeReg n v => exact writeReg_inv h
  | loadStream bs =>
    simp only [serve, loadStream] at h
    split at h
    · cases h
    · cases h; exact .inr (.inr (.inr (.inl ⟨‹_›, _, _, .inr (Memory.ofBytes_wf bs), rfl⟩)))
  | loadPixels ps =>
    simp only [serve, loadPixels] at h
    split at h
    · cases h
    · cases h; exact .inr (.inr (.inl ⟨‹_›, _, _, _, _, rfl⟩))
  | readEncOut =>
    simp only [serve, readEncOut] at h
    split at h
    · cases h; exact answers ⟨_, _, _, rfl⟩
    · cases h
  | readDecOut =>
    simp only [serve, readDecOut] at h
    split at h
    · cases h; exact answers ⟨_, _, _, rfl⟩
    · cases h
  | readDecImage =>
    simp only [serve, readDecImage] at h
    split at h
    · cases h; exact answers ⟨_, _, _, rfl⟩
    · cases h
  | imageFromRaw raw w hh ch cs =>
    simp only [serve, imageFromRaw] at h
    split at h
    · cases h
    · split at h
      · cases h; exact answers ⟨_, _, _, rfl⟩
      · exact answers (construct_inv h)
  | imageFromPixels ps w hh ch cs =>
    simp only [serve, imageFromPixels] at h
    split at h
    · cases h
    · exact answers (construct_inv h)
  | imageToBytes i =>
    simp only [serve, imageToBytes] at h
    split at h
    · cases h
    · split at h
      · cases h
      · cases h; exact answers ⟨_, _, _, rfl⟩

/-! ## The step -/

/-- What a step can do: one move, on the state with its turn used up. -/
theorem step_inv {s t : State} (h : step s = .next t) :
    (∃ r, serve r (popTurn s) = .next t) ∨ encoderStep (popTurn s) = .next t ∨ decoderStep (popTurn s) = .next t := by
  unfold step move at h
  split at h
  · rename_i turn rest ha
    have hs : popTurn s = { s with agenda := rest } := by simp [popTurn, ha]
    rw [hs]
    cases turn with
    | host r => exact .inl ⟨r, h⟩
    | encoder => exact .inr (.inl h)
    | decoder => exact .inr (.inr h)
  · rename_i ha
    have hs : popTurn s = s := by
      obtain ⟨⟩ := s
      simp_all [popTurn]
    rw [hs]
    unfold idleTurn at h
    split at h
    · exact .inr (.inr h)
    · exact .inr (.inl h)

/-- When the decoder moves in BODY, the step is its step, on the state with its turn used up. -/
theorem step_of_decoderMoves {s : State} (h : decoderMoves s = true) (hb : s.dec.phase = .body) :
    step s = decoderStep (popTurn s) := by
  unfold decoderMoves at h
  unfold step move
  split at h
  · rename_i rest ha
    rw [ha]
    simp [takeTurn, popTurn, ha]
  · cases h
  · rename_i ha
    rw [ha]
    simp only [idleTurn, hb, if_true]
    congr 1
    obtain ⟨⟩ := s
    simp_all [popTurn]

/-- Before DEC.END, that step is the chunk step (R114). -/
theorem step_of_chunk {s : State} (h : decoderMoves s = true) (hb : s.dec.phase = .body)
    (hlt : s.dec.pos < s.dec.limit) : step s = chunkStep (popTurn s) := by
  rw [step_of_decoderMoves h hb]
  simp [decoderStep, hb, hlt]

/-! ## Reading a stream that is in place -/

/-- MemRead answers the bytes that are there (R32). -/
theorem memRead_of_bytes {d : Decoder} {a : Nat} {bs : List Byte} (h : a + bs.length ≤ d.inLen)
    (hb : ∀ k b, bs[k]? = some b → d.inp.read (a + k) = some b) : memRead d a bs.length = .ok bs := by
  rw [memRead, if_neg (by omega), Memory.readBytes_eq_some d.inp a bs hb]

/-- MemRead of a stream in place answers that part of the stream (R32). -/
theorem memRead_of_streamIs {s : State} {bs : List Byte} (h : StreamIs s bs) (a n : Nat) (hl : a + n ≤ bs.length) :
    memRead s.dec a n = .ok ((bs.drop a).take n) := by
  have read := memRead_of_bytes (d := s.dec) (a := a) (bs := (bs.drop a).take n)
    (by rw [h.length]; simp; omega) fun k b hk => by
      apply h.bytes
      rw [List.getElem?_take] at hk
      split at hk
      · rw [List.getElem?_drop] at hk; exact hk
      · cases hk
  rwa [List.length_take, List.length_drop, Nat.min_eq_left (by omega)] at read

end Sys2Proof.Machine
end

