-- ==== Sys2Proof/Tests/Slice0.lean ====
section
/-! SUPPORT. The model's own tests: expected results are the spec's worked vectors (95_test_vectors.md, or the rule named),
and for every obligation with hypotheses a witness that meets them together. -/

namespace Sys2Proof.Tests

open Sys2Proof.Machine

/-! ## Helpers -/

def nextOf : Result → Option State
  | .next s => some s
  | .fault _ => none
  | .refused _ => none

def refusalOf : Result → Option Refusal
  | .next _ => none
  | .fault _ => none
  | .refused r => some r

/-- The decoder about to run some chunk bytes, with a previous pixel and a cache. -/
def inBody (prev : Pixel) (cache : Cache) (bytes : List Byte) : State :=
  let s := placeChunk bytes State.reset
  { s with dec := { s.dec with prev := prev, cache := cache } }

/-- A cache with one pixel remembered. -/
def holding (p : Pixel) : Cache := remember Cache.zero p

/-- HDR(w,h,ch,cs). -/
def hdr (w h : Word) (ch cs : Byte) : List Byte := encode (.header w h ch cs)

def mark : List Byte := [0, 0, 0, 0, 0, 0, 0, 1]

/-- A stream in place and the host's START next. -/
def loaded (bytes : List Byte) : State :=
  { State.reset with
    agenda := [.host (.writeReg 8 1)]
    dec := { Decoder.reset with inLen := bytes.length, inp := Memory.ofBytes bytes } }

/-- What START makes of a stream: phase, fault, cause. -/
def startOf (bytes : List Byte) : Option (Phase × FaultKind × Cause) :=
  (nextOf (step (loaded bytes))).map fun t => (t.dec.phase, t.dec.fault, t.dec.cause)

/-- An image handed to the encoder, START not yet written. `fmt` is the ENC_FMT word. -/
def handed (w h fmt : Word) (pixels : List Pixel) : State :=
  { State.reset with enc := { Encoder.reset with widthReg := w, heightReg := h, fmtReg := fmt, pix := pixels } }

/-- The encoder in BODY at the first of some pixels of one row, with a pending run. -/
def midRow (prev : Pixel) (cache : Cache) (run : Nat) (pixels : List Pixel) : State :=
  { State.reset with
    enc :=
      { Encoder.reset with
        phase := .body
        width := BitVec.ofNat 32 (pixels.length + run)
        height := 1
        channels := 4
        prev := prev
        cache := cache
        run := run
        idx := run
        pix := List.replicate run prev ++ pixels } }

/-- The bytes of a verdict from (128,128,128,255) and an all-zero cache: the table of 95_test_vectors.md 2.2. -/
def bytesFrom128 (r g b : Byte) : List Byte :=
  bytesOf (classify .plus ⟨r, g, b, 255⟩ ⟨128, 128, 128, 255⟩ Cache.zero)

/-! ## WellFormed refuses what has no encoding (R57, R59, R62) -/

theorem test_wellFormed_diff :
    (Instr.diff (-2) 1 0).wellFormed = true ∧ (Instr.diff 2 0 0).wellFormed = false ∧
    (Instr.diff (-3) 0 0).wellFormed = false ∧ (Instr.diff 0 2 0).wellFormed = false ∧
    (Instr.diff 0 (-3) 0).wellFormed = false ∧ (Instr.diff 0 0 2).wellFormed = false ∧
    (Instr.diff 0 0 (-3)).wellFormed = false := by decide

theorem test_wellFormed_luma :
    (Instr.luma (-32) (-8) 7).wellFormed = true ∧ (Instr.luma 31 7 (-8)).wellFormed = true ∧
    (Instr.luma 32 0 0).wellFormed = false ∧ (Instr.luma (-33) 0 0).wellFormed = false ∧
    (Instr.luma 0 8 0).wellFormed = false ∧ (Instr.luma 0 (-9) 0).wellFormed = false ∧
    (Instr.luma 0 0 8).wellFormed = false ∧ (Instr.luma 0 0 (-9)).wellFormed = false := by decide

theorem test_wellFormed_run :
    (Instr.run 1).wellFormed = true ∧ (Instr.run 62).wellFormed = true ∧ (Instr.run 0).wellFormed = false ∧
    (Instr.run 63).wellFormed = false := by decide

theorem test_wellFormed_header :
    (Instr.header 0 0 3 1).wellFormed = true ∧ (Instr.header 0 0 4 0).wellFormed = true ∧
    (Instr.header 0 0 2 0).wellFormed = false ∧ (Instr.header 0 0 5 0).wellFormed = false ∧
    (Instr.header 0 0 4 2).wellFormed = false := by decide

/-! ## Decoding: words of the spec (R50 to R55, 95_test_vectors.md 2.5 and P2 to P4) -/

/-- `FE 64 00 00`. -/
theorem test_decode_rgb : decodeTableWord 32 0x000064FE = some (.rgb 100 0 0) := by decide

/-- `FF 01 02 03 04`. -/
theorem test_decode_rgba : decodeTableWord 40 0x04030201FF = some (.rgba 1 2 3 4) := by decide

/-- `01 11 01 10`: `76`; and the ends `40`, `7F`. -/
theorem test_decode_diff :
    decodeTableWord 8 0b01110110 = some (.diff 1 (-1) 0) ∧ decodeTableWord 8 0x40 = some (.diff (-2) (-2) (-2)) ∧
    decodeTableWord 8 0x7F = some (.diff 1 1 1) := by decide

/-- `00 001011`: `0B`; and the ends. -/
theorem test_decode_index :
    decodeTableWord 8 0b00001011 = some (.index 11) ∧ decodeTableWord 8 0x00 = some (.index 0) ∧
    decodeTableWord 8 0x3F = some (.index 63) := by decide

/-- `10 101000 1001 0101`: `A8 95`; and the ends `80 00`, `BF FF`. -/
theorem test_decode_luma :
    decodeTableWord 16 0b1001010110101000 = some (.luma 8 1 (-3)) ∧
    decodeTableWord 16 0x0080 = some (.luma (-32) (-8) (-8)) ∧
    decodeTableWord 16 0xFFBF = some (.luma 31 7 7) := by decide

/-- `11 000101`: `C5`; and the ends `C0`, `FD`. -/
theorem test_decode_run :
    decodeTableWord 8 0b11000101 = some (.run 6) ∧ decodeTableWord 8 0xC0 = some (.run 1) ∧
    decodeTableWord 8 0xFD = some (.run 62) := by decide

/-- The header of P3 (R46); its word has the first byte at the bottom. -/
theorem test_decode_header :
    decodeTableWord 112 0x0103010000008300000066696F71 = some (.header 131 1 3 1) := by decide

/-- The end marker (R47): its last byte, 01, is bits 63:56. -/
theorem test_decode_end :
    decodeTableWord 64 0x0100000000000000 = some .endMark ∧ decodeTableWord 64 0 = none := by decide

/-- The encoder writes the bytes of 95_test_vectors.md P2, P3 and P4. -/
theorem test_encode_units :
    encode (.diff 1 1 0) = [0x7E] ∧ encode (.luma 8 1 (-3)) = [0xA8, 0x95] ∧ encode (.run 6) = [0xC5] ∧
    encode (.index 53) = [0x35] ∧ encode (.rgba 64 0 0 0) = [0xFF, 0x40, 0, 0, 0] ∧
    encode (.luma (-32) (-8) (-8)) = [0x80, 0x00] := by decide

/-! ## One step of each instruction, fetched and run (95_test_vectors.md 2.5) -/

def outAndPos (r : Result) : Option (List Pixel × Nat) := (nextOf r).map fun t => (t.dec.out, t.dec.pos)

theorem test_step_rgb :
    outAndPos (step (State.reset.withFetchWord 32 0x000064FE)) = some ([⟨100, 0, 0, 255⟩], 18) := by decide

theorem test_step_rgba :
    outAndPos (step (State.reset.withFetchWord 40 0x04030201FF)) = some ([⟨1, 2, 3, 4⟩], 19) := by decide

/-- A wrap on two channels: prev (255,0,255,7), byte `7C`. -/
theorem test_step_diff :
    outAndPos (step (inBody ⟨255, 0, 255, 7⟩ Cache.zero [0x7C])) = some ([⟨0, 1, 253, 7⟩], 15) := by decide

/-- INDEX 5 of a fresh cache: the zero pixel, written to slot 0, not to slot 5 (R121; P4 at POS 21). -/
theorem test_step_index :
    (nextOf (step (inBody ⟨64, 0, 0, 0⟩ (holding ⟨64, 0, 0, 0⟩) [0x05]))).map
      (fun t => (t.dec.out, slot t.dec.cache 0, t.dec.prev)) =
      some ([⟨0, 0, 0, 0⟩], ⟨0, 0, 0, 0⟩, ⟨0, 0, 0, 0⟩) := by decide

/-- `AA 88` from the initial pixel, written to slot 11. -/
theorem test_step_luma :
    (nextOf (step (State.reset.withFetchWord 16 0x88AA))).map (fun t => (t.dec.out, slot t.dec.cache 11)) =
      some ([⟨10, 10, 10, 255⟩], ⟨10, 10, 10, 255⟩) := by decide

/-- `80 00` from (0,1,129,0): three wraps. -/
theorem test_step_luma_wraps :
    outAndPos (step (inBody ⟨0, 1, 129, 0⟩ Cache.zero [0x80, 0x00])) = some ([⟨216, 225, 89, 0⟩], 16) := by decide

/-- A RUN as first chunk repeats the initial pixel and writes it to slot 53 (R123). -/
theorem test_step_run :
    (nextOf (step (State.reset.withFetchWord 8 0xC2))).map (fun t => (t.dec.out, slot t.dec.cache 53)) =
      some ([⟨0, 0, 0, 255⟩, ⟨0, 0, 0, 255⟩, ⟨0, 0, 0, 255⟩], ⟨0, 0, 0, 255⟩) := by decide

theorem test_step_run_62 :
    (nextOf (step (State.reset.withFetchWord 8 0xFD))).map (fun t => (t.dec.out.length, t.dec.npix)) =
      some (62, 62) := by decide

/-- HDR(2,1,4,0) before an end marker: START latches the fields. -/
theorem test_step_header :
    (nextOf (step (State.reset.withFetchWord 112 0x0004010000000200000066696F71))).map
      (fun t => (t.dec.phase, t.dec.width, t.dec.height, t.dec.channels)) = some (.body, 2, 1, 4) := by decide

/-- CHANNELS = 0 under the default policy: refused by name (R150). -/
theorem test_step_header_refused :
    refusalOf (step (State.reset.withFetchWord 112 0x66696F71)) = some .headerFormat := by decide

theorem test_step_end :
    (nextOf (step (State.reset.withFetchWord 64 0x0100000000000000))).map
      (fun t => (t.dec.phase, t.dec.pos, t.dec.limit)) = some (.body, 14, 14) := by decide

/-! ## START, FINISH and the faults (95_test_vectors.md 2.6) -/

/-- F1, F9 accepted; F2, F3 bad marker; F4, F5 bad magic first; F6 three bytes; F7, F8 no room. -/
theorem test_start_checks :
    startOf (hdr 2 1 4 0 ++ [0xAA, 0x88, 0xC0] ++ mark) = some (.body, .none, .none) ∧
    startOf (hdr 0 0 4 0 ++ mark) = some (.body, .none, .none) ∧
    startOf (hdr 2 1 4 0 ++ [0xAA, 0x88, 0xC0] ++ [0, 0, 0, 0, 0, 0, 0, 0]) =
      some (.fault, .decodeError, .endMarker) ∧
    startOf (hdr 2 1 4 0 ++ [0xAA, 0x88, 0xC0] ++ [0, 0, 1, 0, 0, 0, 0, 1]) =
      some (.fault, .decodeError, .endMarker) := by decide

theorem test_start_magic :
    startOf ([0x71, 0x6F, 0x69, 0x67] ++ (hdr 2 1 4 0).drop 4 ++ [0xAA, 0x88, 0xC0] ++ mark) =
      some (.fault, .headerError, .none) ∧
    startOf ([0x71, 0x6F, 0x69, 0x67] ++ (hdr 2 1 4 0).drop 4 ++ [0xAA, 0x88, 0xC0] ++ [0, 0, 0, 0, 0, 0, 0, 0]) =
      some (.fault, .headerError, .none) ∧
    startOf [0x71, 0x6F, 0x69] = some (.fault, .headerError, .none) ∧
    startOf (hdr 0 0 4 0) = some (.fault, .decodeError, .endMarker) ∧
    startOf (hdr 0 0 4 0 ++ mark.drop 1) = some (.fault, .decodeError, .endMarker) := by decide

/-- F15, F17: the truncated chunk leaves DEC_POS at its tag byte and produces nothing. -/
theorem test_truncated :
    (nextOf (step (inBody Pixel.start Cache.zero [0xFE, 0x01, 0x02]))).map
      (fun t => (t.dec.phase, t.dec.fault, t.dec.cause, t.dec.pos, t.dec.out)) =
      some (.fault, .decodeError, .truncatedChunk, 14, []) := by decide

/-- The decoder at the end of a body with some pixels counted. -/
def atFinish (w h : Word) (n : Nat) : State :=
  let s := inBody Pixel.start Cache.zero []
  { s with dec := { s.dec with width := w, height := h, npix := n, out := List.replicate n Pixel.start } }

/-- F18: 65536×65536 is not wrapped to 0; F1's count; F10: 0×5 is 0. -/
theorem test_finish :
    (nextOf (step (atFinish 65536 65536 1))).map (fun t => (t.dec.phase, t.dec.fault)) =
      some (.fault, .pixelCountMismatch) ∧
    (nextOf (step (atFinish 65536 65536 0))).map (fun t => t.dec.phase) = some .fault ∧
    (nextOf (step (atFinish 2 1 2))).map (fun t => t.dec.phase) = some .done ∧
    (nextOf (step (atFinish 0 5 0))).map (fun t => t.dec.phase) = some .done := by decide

/-! ## Arithmetic and the classifier (95_test_vectors.md 2.1, 2.2) -/

theorem test_sdiff8 :
    sdiff8 .plus 0 255 = 1 ∧ sdiff8 .plus 255 0 = -1 ∧ sdiff8 .plus 0 127 = -127 ∧ sdiff8 .plus 10 250 = 16 ∧
    sdiff8 .plus 250 10 = -16 ∧ sdiff8 .plus 200 72 = 128 ∧ sdiff8 .minus 72 200 = -128 := by decide

theorem test_hash_and_add8 :
    pixelHash ⟨1, 2, 3, 4⟩ = 14 ∧ pixelHash ⟨100, 0, 0, 255⟩ = 33 ∧ pixelHash ⟨0, 0, 0, 1⟩ = 11 ∧
    add8 0 (-2) = 254 ∧ add8 250 16 = 10 ∧ add8 129 (-40) = 89 := by decide

theorem test_classify_bytes :
    bytesFrom128 126 129 128 = [0x4E] ∧ bytesFrom128 125 128 128 = [0xA0, 0x58] ∧
    bytesFrom128 137 130 122 = [0xA2, 0xF0] ∧ bytesFrom128 122 130 137 = [0xA2, 0x0F] ∧
    bytesFrom128 88 96 88 = [0x80, 0x00] ∧ bytesFrom128 166 159 166 = [0xBF, 0xFF] ∧
    bytesFrom128 87 96 88 = [0xFE, 0x57, 0x60, 0x58] ∧ bytesFrom128 138 130 122 = [0xFE, 0x8A, 0x82, 0x7A] ∧
    bytesFrom128 0 128 128 = [0xFE, 0x00, 0x80, 0x80] := by decide

theorem test_classify_order :
    classify .plus ⟨10, 10, 10, 255⟩ ⟨10, 10, 10, 255⟩ (holding ⟨10, 10, 10, 255⟩) = .run ∧
    classify .plus ⟨10, 10, 10, 255⟩ Pixel.start (holding ⟨10, 10, 10, 255⟩) = .index 11 ∧
    classify .plus ⟨10, 10, 10, 254⟩ ⟨0, 0, 0, 254⟩ (holding ⟨10, 10, 10, 255⟩) = .luma 10 0 0 ∧
    classify .plus ⟨0, 0, 0, 0⟩ Pixel.start Cache.zero = .index 0 ∧
    classify .plus ⟨0, 0, 0, 0⟩ Pixel.start (Vector.replicate 64 ⟨7, 7, 7, 7⟩) = .rgba 0 0 0 0 ∧
    classify .plus ⟨0, 0, 0, 255⟩ ⟨255, 255, 255, 255⟩ Cache.zero = .diff 1 1 1 := by decide

/-! ## The encoder (R97 and 95_test_vectors.md 2.3, P1, P2, P3) -/

theorem test_flush_run :
    flushRun 0 = [] ∧ flushRun 1 = [0xC0] ∧ flushRun 61 = [0xFC] ∧ flushRun 62 = [0xFD] ∧ flushRun 63 = [0xFD, 0xC0] ∧
    flushRun 124 = [0xFD, 0xFD] ∧ flushRun 125 = [0xFD, 0xFD, 0xC0] ∧ flushRun 186 = [0xFD, 0xFD, 0xFD] := by decide

/-- START of P1's image. -/
theorem test_encoder_start :
    (nextOf (serve (.writeReg 0 1) (handed 2 1 4 [⟨10, 10, 10, 255⟩, ⟨10, 10, 10, 255⟩]))).map (fun t => t.enc.out) =
      some [0x71, 0x6F, 0x69, 0x66, 0, 0, 0, 2, 0, 0, 0, 1, 4, 0] := by decide

/-- The last pixel of P3: 130 pending pixels are flushed before the DIFF byte, and slot 60 is written. -/
theorem test_encoder_chunk :
    (nextOf (encoderStep (midRow Pixel.start Cache.zero 130 [⟨0, 0, 1, 255⟩]))).map
      (fun t => (t.enc.out, t.enc.run, slot t.enc.cache 60, slot t.enc.cache 53)) =
      some ([0xFD, 0xFD, 0xC5, 0x6B], 0, ⟨0, 0, 1, 255⟩, ⟨0, 0, 0, 0⟩) := by decide

/-- FINISH with a pending run (R100). -/
theorem test_encoder_finish :
    (nextOf (encoderStep (midRow ⟨10, 10, 10, 255⟩ Cache.zero 1 []))).map (fun t => (t.enc.out, t.enc.phase)) =
      some ([0xC0, 0, 0, 0, 0, 0, 0, 0, 1], .done) := by decide

/-- E6: the whole of the composed function on a small image. -/
theorem test_encode_image :
    encodeImage .plus ⟨5, 1, 4, 0, [⟨50, 50, 50, 255⟩, ⟨52, 49, 50, 255⟩, ⟨60, 60, 57, 255⟩, ⟨50, 50, 50, 255⟩,
      ⟨60, 60, 57, 255⟩]⟩ =
      hdr 5 1 4 0 ++ [0xFE, 0x32, 0x32, 0x32, 0x9F, 0xB9, 0xAB, 0x54, 0x23, 0x24] ++ mark := by decide

/-- P4 through the composed decoder. -/
theorem test_decode_stream :
    decodeStream Config.default
      (hdr 9 1 4 0 ++ [0xC0, 0x35, 0xFF, 0x40, 0, 0, 0, 0x05, 0x00, 0xFE, 0xFF, 0x00, 0x80, 0x7F, 0x80, 0x00, 0x6A]
        ++ mark) =
      .image ⟨9, 1, 4, 0, [⟨0, 0, 0, 255⟩, ⟨0, 0, 0, 255⟩, ⟨64, 0, 0, 0⟩, ⟨0, 0, 0, 0⟩, ⟨0, 0, 0, 0⟩,
        ⟨255, 0, 128, 0⟩, ⟨0, 1, 129, 0⟩, ⟨216, 225, 89, 0⟩, ⟨216, 225, 89, 0⟩]⟩ := by decide

/-! ## Result registers of the decoder (R174, R24) -/

/-- DEC_FMT of a decoder that holds CHANNELS 3 and COLORSPACE 1, by phase: answered in DONE, refused in BODY and FAULT. -/
theorem test_read_decFmt :
    let s := latchHeader 2 1 3 1 State.reset;
    (nextOf (serve (.readReg 13) (decoderDone s))).map (fun t => t.reply) = some (some (.value 0x0103)) ∧
    refusalOf (serve (.readReg 13) (raiseDec .headerError .none s)) = some .resultNotAvailable ∧
    refusalOf (serve (.readReg 11) (beginScan s)) = some .resultNotAvailable := by decide

/-! ## The Image unit (95_test_vectors.md 2.7) -/

def imageOf (raw : List Byte) (w h : Word) (ch : Byte) : Option (FaultKind × Option Reply) :=
  (nextOf (serve (.imageFromRaw raw w h ch 0) State.reset)).map fun t => (t.imgFault, t.reply)

theorem test_image_from_raw :
    imageOf [10, 10, 10, 10, 10, 10] 2 1 3 =
      some (.none, some (.image ⟨2, 1, 3, 0, [⟨10, 10, 10, 255⟩, ⟨10, 10, 10, 255⟩]⟩)) ∧
    imageOf [10, 10, 10, 10, 10, 10] 2 1 4 = some (.malformedLength, none) ∧
    imageOf [1, 2, 3, 4, 5, 6, 7, 8] 1 1 4 = some (.pixelCountMismatch, none) ∧
    imageOf [1, 2, 3, 4, 5, 6, 7] 1 1 4 = some (.malformedLength, none) ∧
    imageOf [] 0 0 4 = some (.none, some (.image ⟨0, 0, 4, 0, []⟩)) ∧
    imageOf [] 1 1 3 = some (.pixelCountMismatch, none) := by decide

theorem test_to_bytes :
    toBytes ⟨2, 1, 3, 0, [⟨10, 10, 10, 255⟩, ⟨10, 10, 10, 255⟩]⟩ = [10, 10, 10, 10, 10, 10] ∧
    toBytes ⟨2, 1, 4, 0, [⟨1, 2, 3, 4⟩, ⟨5, 6, 7, 8⟩]⟩ = [1, 2, 3, 4, 5, 6, 7, 8] := by decide

/-! ## Witnesses: states and operands that meet the hypotheses of each obligation together -/

/-- `DifferenceIsSmallestRepresentative`, `DifferenceLaws`: each case of the comparison, at the boundary values 127, 128
and 129. -/
theorem test_witness_difference :
    ((10 - 250 : Int) % 256 < (250 - 10 : Int) % 256) ∧ ((250 - 10 : Int) % 256 > (10 - 250 : Int) % 256) ∧
    ((128 - 0 : Int) % 256 = 128) ∧ ((127 - 0 : Int) % 256 ≤ 127) ∧ (129 ≤ (129 - 0 : Int) % 256) ∧
    ((127 - 0 : Int) % 256 ≠ 128) := by decide

/-- `DecodeInvertsEncode`: a well-formed unit of every family, at both ends of its ranges. -/
theorem test_witness_DecodeInvertsEncode :
    [Instr.rgb 0 0 255, .rgba 255 255 255 255, .diff (-2) (-2) 1, .diff 1 1 (-2), .index 0, .index 63,
      .luma (-32) (-8) 7, .luma 31 7 (-8), .run 1, .run 62, .header 0 0xFFFFFFFF 3 1, .header 1 0 4 0,
      .endMark].all Instr.wellFormed = true := by decide

/-- `EncodeInvertsDecode`: bytes each place accepts. -/
theorem test_witness_EncodeInvertsDecode :
    decode .head (hdr 1 2 9 9 ++ [7]) = .ok (.header 1 2 9 9, [7]) ∧ decode .body [0xFD, 7] = .ok (.run 62, [7]) ∧
    decode .tail (mark ++ [7]) = .ok (.endMark, [7]) := by decide

/-- A decoder left with the unreachable cause, in a state no run reaches. -/
def oddCause : State := { State.reset with dec := { Decoder.reset with cause := .malformedTag } }

theorem test_witness_MalformedTagIsUnreachable :
    step oddCause = .next oddCause ∧ oddCause.dec.cause = .malformedTag := ⟨rfl, rfl⟩

/-- `StreamReadIsBounded`: the range ends at DEC_INLEN, one past it, and a hole below it. -/
theorem test_witness_StreamReadIsBounded :
    (loaded [1, 2, 3]).dec.inLen < 2 + 2 ∧
    (2 + 1 ≤ (loaded [1, 2, 3]).dec.inLen ∧ [(3 : Byte)].length = 1 ∧ (loaded [1, 2, 3]).dec.inp.read (2 + 0) = some 3) ∧
    (let d := { (loaded [1]).dec with inLen := 2 }; 0 + 2 ≤ d.inLen ∧ d.inp.read (0 + 1) = none) := by decide

/-- The tag hypotheses of `DiffChunkEffect`, `LumaChunkEffect` and `RunChunkEffect`, at the ends. -/
theorem test_witness_chunk_tags :
    (0x40#8).extractLsb' 6 2 = 0b01#2 ∧ (0x7F#8).extractLsb' 6 2 = 0b01#2 ∧ (0x80#8).extractLsb' 6 2 = 0b10#2 ∧
    (0xBF#8).extractLsb' 6 2 = 0b10#2 ∧ (Instr.run 1).wellFormed = true ∧ (Instr.run 62).wellFormed = true := by decide

/-- A machine with chosen parameters. -/
def configured (policy : BadFmtPolicy) (maxPixels : Option Nat) : State :=
  { State.reset with cfg := { Config.default with badFmtPolicy := policy, maxPixels := maxPixels } }

theorem test_witness_HeaderLatchesFields :
    (Instr.header 2 3 4 1).wellFormed = true ∧ (configured .refuse (some 6)).cfg.maxPixels = some 6 ∧
    (2 : Word).toNat * (3 : Word).toNat ≤ 6 := by decide

/-- `HeaderFormatPolicy`: an illegal byte pair under each value of the parameter. -/
theorem test_witness_HeaderFormatPolicy :
    ¬ (((2 : Byte) = 3 ∨ (2 : Byte) = 4) ∧ ((0 : Byte) = 0 ∨ (0 : Byte) = 1)) ∧
    (configured .refuse none).cfg.badFmtPolicy = .refuse ∧
    (configured .headerError none).cfg.badFmtPolicy = .headerError ∧
    ((configured .pass (some 6)).cfg.badFmtPolicy = .pass ∧ (2 : Word).toNat * (3 : Word).toNat ≤ 6) ∧
    (Instr.run 1).place = .body := by decide

/-- `OversizeImagesAreRefused`: one pixel above the bound, in a header of either kind and at encoder START. -/
theorem test_witness_OversizeImagesAreRefused :
    ((configured .refuse (some 5)).cfg.maxPixels = some 5 ∧ 5 < (2 : Word).toNat * (3 : Word).toNat ∧
      (Instr.header 2 3 4 1).wellFormed = true) ∧
    ((configured .pass (some 5)).cfg.maxPixels = some 5 ∧ (configured .pass (some 5)).cfg.badFmtPolicy = .pass) ∧
    (let s := { handed 1 1 4 [⟨0, 0, 0, 0⟩] with cfg := { Config.default with maxPixels := some 0 } };
      s.cfg.maxPixels = some 0 ∧ 0 < s.enc.widthReg.toNat * s.enc.heightReg.toNat ∧ s.enc.phase ≠ .body ∧
      legalFormat (fmtChannels s.enc.fmtReg) (fmtColorspace s.enc.fmtReg) = true ∧
      s.enc.pix.length = s.enc.widthReg.toNat * s.enc.heightReg.toNat) ∧
    State.reset.cfg.maxPixels = none := by decide

/-- The decoder in BODY over a chunk that ends exactly at DEC.END. -/
theorem test_witness_StepRunsDecodedChunk : ∃ (s : State) (i : Instr),
    decoderMoves s = true ∧ s.dec.phase = .body ∧ i.place = .body ∧ i.wellFormed = true ∧
    s.dec.pos + i.length = s.dec.limit ∧ s.dec.limit ≤ s.dec.inLen ∧
    ∀ k b, (encode i)[k]? = some b → s.dec.inp.read (s.dec.pos + k) = some b :=
  ⟨inBody Pixel.start Cache.zero (encode (.luma 10 0 0)), .luma 10 0 0, by decide, by decide, by decide, by decide,
    by decide, by decide, fun k b h => Memory.read_writeBytes _ _ _ k b h⟩

/-- `TruncatedChunkFaults`: LUMA with one byte missing. -/
theorem test_witness_TruncatedChunkFaults :
    let s := inBody Pixel.start Cache.zero [0x80];
    decoderMoves s = true ∧ s.dec.phase = .body ∧ s.dec.pos < s.dec.limit ∧ s.dec.limit ≤ s.dec.inLen ∧
      s.dec.inp.read s.dec.pos = some 0x80 ∧ rowOf 0x80 = some ⟨.luma, 0xC0, 0x80, 2⟩ ∧
      s.dec.limit < s.dec.pos + 2 := by decide

theorem test_witness_FinishComparesExactCount :
    decoderMoves (atFinish 2 1 2) = true ∧ (atFinish 2 1 2).dec.phase = .body ∧
    (atFinish 2 1 2).dec.pos = (atFinish 2 1 2).dec.limit ∧
    (atFinish 2 1 2).dec.npix = (atFinish 2 1 2).dec.width.toNat * (atFinish 2 1 2).dec.height.toNat ∧
    (atFinish 2 1 3).dec.npix ≠ (atFinish 2 1 3).dec.width.toNat * (atFinish 2 1 3).dec.height.toNat := by decide

theorem loaded_streamIs (bytes : List Byte) : StreamIs (loaded bytes) bytes :=
  ⟨rfl, fun k b h => Memory.read_ofBytes bytes k b h⟩

/-- `StartChecksInOrder`: a stream for each of the three clauses. -/
theorem test_witness_StartChecksInOrder :
    (StreamIs (loaded []) [] ∧ ([] : List Byte).take 4 ≠ [0x71, 0x6F, 0x69, 0x66]) ∧
    (StreamIs (loaded (hdr 0 0 4 0 ++ mark.drop 1)) (hdr 0 0 4 0 ++ mark.drop 1) ∧
      (hdr 0 0 4 0 ++ mark.drop 1).take 4 = [0x71, 0x6F, 0x69, 0x66] ∧ (hdr 0 0 4 0 ++ mark.drop 1).length = 21) ∧
    (StreamIs (loaded (hdr 0 0 4 0 ++ [0, 0, 0, 0, 0, 0, 0, 0])) (hdr 0 0 4 0 ++ [0, 0, 0, 0, 0, 0, 0, 0]) ∧
      22 ≤ (hdr 0 0 4 0 ++ [0, 0, 0, 0, 0, 0, 0, (0 : Byte)]).length ∧ (Instr.header 0 0 4 0).wellFormed = true ∧
      (hdr 0 0 4 0 ++ [0, 0, 0, 0, 0, 0, 0, (0 : Byte)]).drop 14 ≠ mark) ∧
    (loaded []).dec.phase ≠ .body ∧ (loaded []).cfg.maxStream = none ∧ (loaded []).cfg.maxPixels = none :=
  ⟨⟨loaded_streamIs _, by decide⟩, ⟨loaded_streamIs _, by decide⟩, ⟨loaded_streamIs _, by decide⟩, by decide⟩

theorem test_witness_StartAcceptsFramedStream :
    StreamIs (loaded (hdr 2 1 4 0 ++ [0xAA, 0x88, 0xC0] ++ mark))
      (encode (.header 2 1 4 0) ++ [0xAA, 0x88, 0xC0] ++ encode .endMark) ∧
    (loaded (hdr 2 1 4 0 ++ [0xAA, 0x88, 0xC0] ++ mark)).dec.phase ≠ .body ∧ (Instr.header 2 1 4 0).wellFormed = true ∧
    State.reset.cfg.maxStream = none ∧ State.reset.cfg.maxPixels = none :=
  ⟨loaded_streamIs _, by decide⟩

/-- `DecoderStartRefusals`: BODY, MAX_STREAM, an illegal and an oversize header with eight bytes after it. -/
theorem test_witness_DecoderStartRefusals :
    (inBody Pixel.start Cache.zero []).dec.phase = .body ∧
    (let s := { loaded mark with cfg := { Config.default with maxStream := some 7 } };
      s.cfg.maxStream = some 7 ∧ 7 < s.dec.inLen) ∧
    (StreamIs (loaded (hdr 1 1 5 0 ++ mark)) (encode (.header 1 1 5 0) ++ mark) ∧ 8 ≤ mark.length ∧
      (Instr.header 1 1 5 0).wellFormed = false ∧ State.reset.cfg.badFmtPolicy = .refuse) ∧
    (let s := { loaded (hdr 1 1 4 0 ++ mark) with cfg := { Config.default with maxPixels := some 0 } };
      StreamIs s (encode (.header 1 1 4 0) ++ mark) ∧ s.cfg.maxPixels = some 0 ∧
        0 < (1 : Word).toNat * (1 : Word).toNat) :=
  ⟨by decide, by decide, ⟨loaded_streamIs _, by decide⟩, ⟨rfl, (loaded_streamIs (hdr 1 1 4 0 ++ mark)).bytes⟩, by decide⟩

/-- `FaultEntrySetsNothingElse`: a step that enters FAULT, a state in FAULT, a constructor that fails. -/
theorem test_witness_FaultEntrySetsNothingElse :
    ((inBody Pixel.start Cache.zero [0x80]).dec.phase = .body ∧
      (nextOf (decoderStep (inBody Pixel.start Cache.zero [0x80]))).map (fun t => t.dec.phase) = some .fault) ∧
    (raiseDec .headerError .none State.reset).dec.phase = .fault ∧
    (imageOf [1] 1 1 4).map (fun x => x.1) = some .malformedLength ∧
    (nextOf (serve (.imageFromPixels [] 1 1 4 0) State.reset)).map (fun t => t.imgFault) = some .pixelCountMismatch := by
  decide

/-- A decoder in BODY, at a chunk, meeting the invariant, with its whole stream in place. -/
def running : State :=
  let s := loaded (hdr 2 1 4 0 ++ [0xAA, 0x88, 0xC0] ++ mark);
  { s with agenda := [], dec := { s.dec with phase := .body, pos := 14, limit := 17, width := 2, height := 1, channels := 4 } }

theorem running_inv : Inv running where
  dec :=
    { stream := by decide, count := rfl, hashed := cacheHashed_zero, seen := .inl rfl, failed := by decide,
      cause := by decide, kind := by decide, start := by decide, within := by decide, marker := by decide }
  enc :=
    { phase := by decide, hashed := cacheHashed_zero, seen := .inl rfl, format := by decide, pixels := by decide,
      index := by decide, run := by decide, done := by decide }

/-- An encoder in BODY, meeting both invariants, under parameters that leave just room for its stream. -/
def writing : State :=
  { State.reset with
    cfg := { Config.default with maxPixels := some 1, maxStream := some 27 }
    enc :=
      { Encoder.reset with
        phase := .body, width := 1, height := 1, channels := 4, pix := [⟨1, 2, 3, 4⟩], out := hdr 1 1 4 0 } }

theorem writing_inv : Inv writing where
  dec :=
    { stream := by decide, count := rfl, hashed := cacheHashed_zero, seen := .inl rfl, failed := by decide,
      cause := by decide, kind := by decide, start := by decide, within := by decide, marker := by decide }
  enc :=
    { phase := by decide, hashed := cacheHashed_zero, seen := .inl rfl, format := by decide, pixels := by decide,
      index := by decide, run := by decide, done := by decide }

theorem writing_size : SizeInv writing where
  scanBytes := by decide
  scanCount := by decide
  bodyRun := by decide
  bodyMost := by decide
  bodyLeast := by decide
  doneMost := by decide
  doneLeast := by decide

theorem test_witness_DecoderNeverStops : Inv running ∧ StreamInPlace running ∧ running.dec.phase = .body :=
  ⟨running_inv, show ∀ a < 25, (running.dec.inp.read a).isSome = true by decide, rfl⟩

/-- The hypotheses of `FlushRunSplitsBy62`, at the boundary. -/
theorem test_witness_FlushRunSplitsBy62 : (1 ≤ 1 ∧ 1 ≤ 62) ∧ (1 ≤ 62 ∧ 62 ≤ 62) ∧ 62 < 63 := by decide

/-- `ChoiceIsDecodable`: a decoder whose slot agrees; one pixel that is Run, and one of each other verdict. -/
theorem test_witness_ChoiceIsDecodable :
    let s := inBody ⟨128, 128, 128, 255⟩ (holding ⟨10, 10, 10, 255⟩) [];
    classify .plus ⟨128, 128, 128, 255⟩ s.dec.prev s.dec.cache = .run ∧
      classify .plus ⟨10, 10, 10, 255⟩ s.dec.prev s.dec.cache = .index 11 ∧
      classify .plus ⟨128, 128, 128, 0⟩ s.dec.prev s.dec.cache = .rgba 128 128 128 0 ∧
      classify .plus ⟨129, 126, 128, 255⟩ s.dec.prev s.dec.cache = .diff 1 (-2) 0 ∧
      classify .plus ⟨137, 130, 122, 255⟩ s.dec.prev s.dec.cache = .luma 2 7 (-8) ∧
      classify .plus ⟨0, 128, 128, 255⟩ s.dec.prev s.dec.cache = .rgb 0 128 128 := by decide

theorem test_witness_EncoderStartEffect :
    let s := { handed 2 1 4 [⟨10, 10, 10, 255⟩, ⟨10, 10, 10, 255⟩] with
      cfg := { Config.default with maxPixels := some 2, maxStream := some 14 } };
    s.enc.phase ≠ .body ∧ fmtChannels s.enc.fmtReg = 4 ∧ fmtColorspace s.enc.fmtReg = 0 ∧
      s.enc.pix.length = s.enc.widthReg.toNat * s.enc.heightReg.toNat ∧ s.enc.pix.length ≤ 2 := by decide

/-- The refusals of `EncoderStartEffect`: BODY, a bad format, a wrong count, a product above MAX_PIXELS. -/
theorem test_witness_EncoderStartRefusals :
    writing.enc.phase = .body ∧
    legalFormat (fmtChannels (handed 1 1 2 []).enc.fmtReg) (fmtColorspace (handed 1 1 2 []).enc.fmtReg) = false ∧
    (handed 1 1 4 []).enc.pix.length ≠ (handed 1 1 4 []).enc.widthReg.toNat * (handed 1 1 4 []).enc.heightReg.toNat ∧
    (let s := { handed 1 1 4 [Pixel.start] with cfg := { Config.default with maxPixels := some 0 } };
      s.cfg.maxPixels = some 0 ∧ 0 < s.enc.pix.length ∧
        s.enc.pix.length = s.enc.widthReg.toNat * s.enc.heightReg.toNat) := by decide

/-- `EncoderRunStepEffect`, with a counter of two bits that has room for one more. -/
theorem test_witness_EncoderRunStepEffect :
    let s := { midRow ⟨10, 10, 10, 255⟩ Cache.zero 2 [⟨10, 10, 10, 255⟩] with
      cfg := { Config.default with runWidth := some 2 } };
    s.enc.phase = .body ∧ s.enc.idx < s.enc.width.toNat * s.enc.height.toNat ∧
      s.enc.pix[s.enc.idx]? = some ⟨10, 10, 10, 255⟩ ∧ s.enc.prev = ⟨10, 10, 10, 255⟩ ∧ s.enc.run + 1 < 2 ^ 2 := by
  decide

/-- `EncoderChunkStepEffect`: a pixel that is not in its slot, and one that is; MAX_STREAM just large enough. -/
theorem test_witness_EncoderChunkStepEffect :
    (let s := { midRow Pixel.start Cache.zero 1 [⟨0, 0, 1, 255⟩] with
        cfg := { Config.default with maxStream := some 2 } };
      s.enc.phase = .body ∧ s.enc.idx < s.enc.width.toNat * s.enc.height.toNat ∧
        s.enc.pix[s.enc.idx]? = some ⟨0, 0, 1, 255⟩ ∧ (⟨0, 0, 1, 255⟩ : Pixel) ≠ s.enc.prev ∧
        s.cfg.maxStream = some 2 ∧ s.enc.out.length + (flushRun s.enc.run).length +
          (bytesOf (classify s.cfg.diffTie ⟨0, 0, 1, 255⟩ s.enc.prev s.enc.cache)).length ≤ 2) ∧
    (let s := midRow Pixel.start (holding ⟨0, 0, 1, 255⟩) 1 [⟨0, 0, 1, 255⟩];
      slot s.enc.cache (pixelHash ⟨0, 0, 1, 255⟩) = ⟨0, 0, 1, 255⟩) ∧
    (3 : Fin 64) ≠ pixelHash ⟨0, 0, 1, 255⟩ := by decide

theorem test_witness_EncoderFinishEffect :
    let s := { midRow ⟨10, 10, 10, 255⟩ Cache.zero 63 [] with cfg := { Config.default with maxStream := some 10 } };
    s.enc.phase = .body ∧ s.enc.idx = s.enc.width.toNat * s.enc.height.toNat ∧
      s.cfg.maxStream = some 10 ∧ s.enc.out.length + (flushRun s.enc.run).length + 8 ≤ 10 := by decide

/-- `BoundedEncoderStepsAreRefused`: each bound passed by one: the counter, a chunk step, FINISH, START. -/
theorem test_witness_BoundedEncoderStepsAreRefused :
    (let s := { midRow ⟨10, 10, 10, 255⟩ Cache.zero 3 [⟨10, 10, 10, 255⟩] with
        cfg := { Config.default with runWidth := some 2 } };
      s.enc.phase = .body ∧ s.enc.idx < s.enc.width.toNat * s.enc.height.toNat ∧
        s.enc.pix[s.enc.idx]? = some s.enc.prev ∧ 2 ^ 2 ≤ s.enc.run + 1) ∧
    (let s := midRow Pixel.start Cache.zero 1 [⟨0, 0, 1, 255⟩];
      1 < s.enc.out.length + (flushRun s.enc.run).length +
        (bytesOf (classify s.cfg.diffTie ⟨0, 0, 1, 255⟩ s.enc.prev s.enc.cache)).length) ∧
    (let s := midRow ⟨10, 10, 10, 255⟩ Cache.zero 63 [];
      s.enc.idx = s.enc.width.toNat * s.enc.height.toNat ∧
        9 < s.enc.out.length + (flushRun s.enc.run).length + 8) ∧
    (let s := { handed 0 0 4 [] with cfg := { Config.default with maxStream := some 13 } };
      s.enc.phase ≠ .body ∧ legalFormat (fmtChannels s.enc.fmtReg) (fmtColorspace s.enc.fmtReg) = true ∧
        s.enc.pix.length = s.enc.widthReg.toNat * s.enc.heightReg.toNat ∧ s.cfg.maxStream = some 13 ∧ 13 < 14) := by
  decide

theorem test_witness_EncoderNeverStops :
    Inv writing ∧ SizeInv writing ∧ writing.cfg.wf = true ∧ writing.cfg.runWidth = none ∧
    writing.cfg.maxPixels = some 1 ∧ writing.enc.width.toNat * writing.enc.height.toNat ≤ 1 ∧ writing.enc.phase = .body :=
  ⟨writing_inv, writing_size, by decide⟩

/-- `HostInputsAreHeld`, `AccessColumnIsEnforced`: not in BODY with the largest values; in BODY. -/
theorem test_witness_registers :
    State.reset.enc.phase ≠ .body ∧ State.reset.dec.phase ≠ .body ∧ 0xFFFF < 2 ^ 16 ∧ 0xFFFFFFFF < 2 ^ 32 ∧
    writing.enc.phase = .body ∧ running.dec.phase = .body ∧ (2 ≤ 2 ∧ 2 < 2 ^ 32) ∧
    (2 ^ 16 ≤ 0x10000 ∧ 0x10000 < 2 ^ 32) := by decide

/-- `ResultsOnlyInDone`, `ReadOnlyRegistersAnswer`, `UnspecifiedReadsAreFree`: each phase and fault their clauses name. -/
theorem test_witness_results :
    (encoderDone State.reset).enc.phase = .done ∧ State.reset.enc.phase ≠ .done ∧
    (decoderDone State.reset).dec.phase = .done ∧ State.reset.dec.phase ≠ .done ∧
    State.reset.dec.phase = .idle ∧ running.dec.phase = .body ∧
    (let d := (raiseDec .headerError .none State.reset).dec; d.phase = .fault ∧ d.fault = .headerError) ∧
    (let d := (raiseDec .decodeError .endMarker State.reset).dec; d.phase = .fault ∧ d.cause = .endMarker) ∧
    (let d := (raiseDec .decodeError .truncatedChunk State.reset).dec;
      ¬ (d.phase = .fault ∧ (d.fault = .headerError ∨ d.cause = .endMarker))) := by decide

/-- `ImageFromRawBytes`, `ImageFromPixelSequence`: operands for each clause, both channel counts. -/
theorem test_witness_images :
    ¬ (((5 : Byte) = 3 ∨ (5 : Byte) = 4) ∧ ((0 : Byte) = 0 ∨ (0 : Byte) = 1)) ∧
    [(1 : Byte), 2].length % (3 : Byte).toNat ≠ 0 ∧
    ([(1 : Byte), 2, 3].length % (3 : Byte).toNat = 0 ∧
      [(1 : Byte), 2, 3].length / (3 : Byte).toNat = (1 : Word).toNat * (1 : Word).toNat) ∧
    ([(1 : Byte), 2, 3, 4].length % (4 : Byte).toNat = 0 ∧
      [(1 : Byte), 2, 3, 4].length / (4 : Byte).toNat ≠ (2 : Word).toNat * (1 : Word).toNat) ∧
    [Pixel.start].length = (1 : Word).toNat * (1 : Word).toNat ∧
    [Pixel.start].length ≠ (1 : Word).toNat * (0 : Word).toNat := by decide

/-- `AccessorEmitsChannelsAndInvertsFromRaw`, second part; its first part asks only for an Image like this one's. -/
theorem test_witness_AccessorInvertsFromRaw : ∃ t i,
    serve (.imageFromRaw [1, 2, 3] 1 1 3 0) State.reset = .next t ∧ t.reply = some (.image i) := ⟨_, _, rfl, rfl⟩

/-- `StepTakesTheNextTurn`: an agenda of each kind, and the three idle cases. -/
theorem test_witness_StepTakesTheNextTurn :
    (loaded []).agenda = [.host (.writeReg 8 1)] ∧ { State.reset with agenda := [.encoder] }.agenda = [.encoder] ∧
    (inBody Pixel.start Cache.zero []).agenda = [.decoder] ∧ (running.agenda = [] ∧ running.dec.phase = .body) ∧
    (writing.agenda = [] ∧ writing.dec.phase ≠ .body ∧ writing.enc.phase = .body) ∧
    (State.reset.agenda = [] ∧ State.reset.dec.phase ≠ .body ∧ State.reset.enc.phase ≠ .body) := by decide

/-- `StepKeepsInvariant`, `StepKeepsSizeBounds`, `InputsAndParametersAreFixed`, `OutputsOnlyGrow`: a decoder step and an
encoder step from states in BODY that meet the invariants. -/
theorem test_witness_invariants :
    (Inv running ∧ running.dec.phase = .body ∧ (nextOf (step running)).map (fun t => t.dec.npix) = some 1) ∧
    (Inv writing ∧ SizeInv writing ∧ writing.enc.phase = .body ∧
      (nextOf (step writing)).map (fun t => t.enc.idx) = some 1) :=
  ⟨⟨running_inv, by decide⟩, ⟨writing_inv, writing_size, by decide⟩⟩

/-- `EnginesShareNothing`: both engines' steps answer a next state. -/
theorem test_witness_EnginesShareNothing :
    (nextOf (decoderStep running)).isSome = true ∧ (nextOf (encoderStep writing)).isSome = true := by decide

/-- `StartForgetsThePast`: two decoders with one stream, one of them left in FAULT; two encoders with one image, one of
them left in DONE. -/
theorem test_witness_StartForgetsThePast :
    (let s := loaded (hdr 0 0 4 0 ++ mark);
      let s' := raiseDec .pixelCountMismatch .none (produce ⟨1, 2, 3, 4⟩ s);
      s'.cfg = s.cfg ∧ s'.dec.inp = s.dec.inp ∧ s'.dec.inLen = s.dec.inLen ∧
        (nextOf (serve (.writeReg 8 1) s)).map (fun t => t.dec.phase) = some .body ∧
        (nextOf (serve (.writeReg 8 1) s')).map (fun t => t.dec.phase) = some .body) ∧
    (let s := handed 1 1 4 [⟨1, 2, 3, 4⟩];
      let s' := encoderDone (encRemember ⟨1, 2, 3, 4⟩ s);
      s'.cfg = s.cfg ∧ s'.enc.widthReg = s.enc.widthReg ∧ s'.enc.heightReg = s.enc.heightReg ∧
        s'.enc.fmtReg = s.enc.fmtReg ∧ s'.enc.pix = s.enc.pix ∧
        (nextOf (serve (.writeReg 0 1) s)).isSome = true ∧ (nextOf (serve (.writeReg 0 1) s')).isSome = true) := by decide

theorem test_witness_EncoderComputesReference :
    let s := { handed 2 1 4 [⟨10, 10, 10, 255⟩, ⟨10, 10, 10, 255⟩] with
      agenda := [.host (.writeReg 0 1)]
      cfg := { Config.default with maxPixels := some 2, maxStream := some 25, runWidth := some 2 } };
    s.agenda = [.host (.writeReg 0 1)] ∧ s.dec.phase ≠ .body ∧ s.enc.phase ≠ .body ∧
      legalFormat (fmtChannels s.enc.fmtReg) (fmtColorspace s.enc.fmtReg) = true ∧
      s.enc.pix.length = s.enc.widthReg.toNat * s.enc.heightReg.toNat ∧
      s.cfg.maxPixels = some 2 ∧ s.enc.pix.length ≤ 2 ∧ s.cfg.maxStream = some 25 ∧
      (encodeImage s.cfg.diffTie ⟨s.enc.widthReg, s.enc.heightReg, fmtChannels s.enc.fmtReg,
        fmtColorspace s.enc.fmtReg, s.enc.pix⟩).length ≤ 25 ∧
      s.cfg.runWidth = some 2 ∧ s.enc.pix.length < 2 ^ 2 := by decide

/-- `DecoderComputesReference`, with a stream for each of its three outcomes. -/
theorem test_witness_DecoderComputesReference :
    (∀ bytes, (loaded bytes).agenda = [.host (.writeReg 8 1)] ∧ (loaded bytes).dec.phase ≠ .body ∧
      StreamIs (loaded bytes) bytes) ∧
    decodeStream Config.default (hdr 0 0 5 0 ++ mark) = .refused .headerFormat ∧
    decodeStream Config.default (hdr 1 1 4 0 ++ mark) = .fault .pixelCountMismatch .none ∧
    decodeStream Config.default (hdr 1 1 4 0 ++ [0xC0] ++ mark) = .image ⟨1, 1, 4, 0, [Pixel.start]⟩ :=
  ⟨fun bytes => ⟨rfl, nofun, loaded_streamIs bytes⟩, by decide⟩

theorem test_witness_RoundTripIsLossless :
    let i : Image := ⟨1, 1, 3, 1, [⟨1, 2, 3, 4⟩]⟩
    i.wf = true ∧ legalFormat i.channels i.colorspace = true ∧ i.pixels.length ≤ 1 ∧
      (encodeImage .minus i).length ≤ 27 := by decide

end Sys2Proof.Tests
end

section
/-! SUPPORT. Frames of the engines' steps and STARTs: neither engine writes the other, the parameters, or the input
it is reading (R6, R10, R31). -/

namespace Sys2Proof.Machine

/-! ## What each engine leaves alone -/

/-- A chunk writes the decoder only, and there neither DEC.IN nor DEC_INLEN (R39). -/
theorem exec_chunk_frame {i : Instr} {s t : State} (hp : i.place = .body) (h : exec i s = .next t) :
    SameOutsideDecoder s t ∧ t.dec.inp = s.dec.inp ∧ t.dec.inLen = s.dec.inLen := by
  rcases exec_chunk hp s with ⟨p, he⟩ | ⟨n, _, he⟩
  · cases he.symm.trans h
    exact ⟨⟨rfl, rfl, rfl, rfl, rfl, rfl⟩, rfl, rfl⟩
  · cases he.symm.trans h
    rw [produceRun_eq]
    exact ⟨⟨rfl, rfl, rfl, rfl, rfl, rfl⟩, rfl, rfl⟩

/-- A decoder step writes the decoder only, and there neither DEC.IN nor DEC_INLEN (R10, R31). -/
theorem decoderStep_frame {s t : State} (h : decoderStep s = .next t) :
    SameOutsideDecoder s t ∧ t.dec.inp = s.dec.inp ∧ t.dec.inLen = s.dec.inLen := by
  rcases decoderStep_inv h with
    ⟨_, rfl⟩ | ⟨_, ⟨i, hi, he⟩ | ⟨_, rfl⟩ | ⟨_, rfl⟩ | ⟨_, _, rfl⟩ | ⟨_, _, rfl⟩⟩
  case inr.inl => exact exec_chunk_frame (fetch_unit hi).1 he
  all_goals exact ⟨⟨rfl, rfl, rfl, rfl, rfl, rfl⟩, rfl, rfl⟩

/-- A decoder START writes the decoder only (R10, R111). -/
theorem decoderStart_outside {s t : State} (h : decoderStart s = .next t) : SameOutsideDecoder s t := by
  rcases (decoderStart_inv h).2 with rfl | rfl | ⟨w, hh, ch, cs, rfl | rfl | ⟨rfl, _⟩⟩ <;>
    exact ⟨rfl, rfl, rfl, rfl, rfl, rfl⟩

/-- The encoder's input is unchanged: ENC.PIX and the three configuration registers (R24, R31). -/
structure SameEncInput (s t : State) : Prop where
  pix       : t.enc.pix = s.enc.pix
  widthReg  : t.enc.widthReg = s.enc.widthReg
  heightReg : t.enc.heightReg = s.enc.heightReg
  fmtReg    : t.enc.fmtReg = s.enc.fmtReg

/-- The cache write of a chunk step changes ENC.CACHE at most (R94, R96). -/
theorem rememberUnlessIndex_writes_cache (v : Verdict) (cur : Pixel) (s : State) :
    ∃ c, rememberUnlessIndex v cur s = { s with enc := { s.enc with cache := c } } := by
  cases v <;> exact ⟨_, rfl⟩

/-- A pixel step writes the encoder only, and there not its input (R93, R94). -/
theorem pixelStep_frame {s t : State} (h : pixelStep s = .next t) : SameOutsideEncoder s t ∧ SameEncInput s t := by
  obtain ⟨cur, _, ⟨_, rfl⟩ | ⟨_, u, hu, rfl⟩⟩ := pixelStep_inv h
  · exact ⟨⟨rfl, rfl, rfl, rfl, rfl, rfl⟩, rfl, rfl, rfl, rfl⟩
  · obtain ⟨_, rfl⟩ := emit_eq_next.1 hu
    obtain ⟨c, hc⟩ := rememberUnlessIndex_writes_cache _ cur (setRunPrev 0 cur _)
    rw [hc]
    exact ⟨⟨rfl, rfl, rfl, rfl, rfl, rfl⟩, rfl, rfl, rfl, rfl⟩

/-- An encoder step writes the encoder only, and there not its input (R10, R31). -/
theorem encoderStep_frame {s t : State} (h : encoderStep s = .next t) :
    SameOutsideEncoder s t ∧ SameEncInput s t := by
  rcases encoderStep_inv h with ⟨_, rfl⟩ | ⟨_, _, hp⟩ | ⟨_, _, u, hu, rfl⟩
  · exact ⟨⟨rfl, rfl, rfl, rfl, rfl, rfl⟩, rfl, rfl, rfl, rfl⟩
  · exact pixelStep_frame hp
  · obtain ⟨_, rfl⟩ := emit_eq_next.1 hu
    exact ⟨⟨rfl, rfl, rfl, rfl, rfl, rfl⟩, rfl, rfl, rfl, rfl⟩

/-- An encoder START writes the encoder only (R10, R91). -/
theorem encoderStart_outside {s t : State} (h : encoderStart s = .next t) : SameOutsideEncoder s t := by
  obtain ⟨_, _, _, _, he⟩ := encoderStart_inv h
  obtain ⟨_, rfl⟩ := emit_eq_next.1 he
  exact ⟨rfl, rfl, rfl, rfl, rfl, rfl⟩

/-! ## The parameters and the inputs of running operations -/

/-- The parameters are unchanged, and so is the input of each engine that is in BODY (R6, R31, R44). -/
structure KeepsInputs (s t : State) : Prop where
  cfg     : t.cfg = s.cfg
  decoder : s.dec.phase = .body → t.dec.inp = s.dec.inp ∧ t.dec.inLen = s.dec.inLen
  encoder : s.enc.phase = .body → SameEncInput s t

/-- What writes the decoder only keeps every input if it keeps that of a running decoder. -/
theorem SameOutsideDecoder.keepsInputs {s t : State} (h : SameOutsideDecoder s t)
    (hd : s.dec.phase = .body → t.dec.inp = s.dec.inp ∧ t.dec.inLen = s.dec.inLen) : KeepsInputs s t :=
  ⟨h.cfg, hd, fun _ => ⟨by rw [h.enc], by rw [h.enc], by rw [h.enc], by rw [h.enc]⟩⟩

/-- What writes the encoder only keeps every input if it keeps that of a running encoder. -/
theorem SameOutsideEncoder.keepsInputs {s t : State} (h : SameOutsideEncoder s t)
    (he : s.enc.phase = .body → SameEncInput s t) : KeepsInputs s t :=
  ⟨h.cfg, fun _ => ⟨by rw [h.dec], by rw [h.dec]⟩, he⟩

/-- It depends on the parameters and the engines only, not on the agenda or the reply. -/
theorem KeepsInputs.congr {s u t : State} (hc : u.cfg = s.cfg) (hd : u.dec = s.dec) (he : u.enc = s.enc)
    (h : KeepsInputs u t) : KeepsInputs s t := by
  obtain ⟨cfg, decoder, encoder⟩ := h
  rw [hc] at cfg
  rw [hd] at decoder
  refine ⟨cfg, decoder, fun hb => ?_⟩
  obtain ⟨pix, widthReg, heightReg, fmtReg⟩ := encoder (he ▸ hb)
  rw [he] at pix widthReg heightReg fmtReg
  exact ⟨pix, widthReg, heightReg, fmtReg⟩

/-- No host request writes the parameters or the input of a running operation: a START and a write of an input are
answered only outside BODY (R24, R31). -/
theorem serve_keepsInputs {r : Request} {s t : State} (h : serve r s = .next t) : KeepsInputs s t := by
  rcases serve_inv h with hd | he | ⟨hp, w, hh, f, ps, rfl⟩ | ⟨hp, n, m, _, rfl⟩ | ⟨k, y, n, rfl⟩
  · exact .congr (u := noAnswer s) rfl rfl rfl
      ((decoderStart_outside hd).keepsInputs fun hb => absurd hb (decoderStart_inv hd).1)
  · exact .congr (u := noAnswer s) rfl rfl rfl
      ((encoderStart_outside he).keepsInputs fun hb => absurd hb (encoderStart_inv he).1)
  · exact ⟨rfl, fun _ => ⟨rfl, rfl⟩, fun hb => absurd hb hp⟩
  · exact ⟨rfl, fun hb => absurd hb hp, fun _ => ⟨rfl, rfl, rfl, rfl⟩⟩
  · exact ⟨rfl, fun _ => ⟨rfl, rfl⟩, fun _ => ⟨rfl, rfl, rfl, rfl⟩⟩

/-- No step writes the parameters or the input of a running operation (R6, R31, R44). -/
theorem step_keepsInputs {s t : State} (h : step s = .next t) : KeepsInputs s t := by
  refine .congr (u := popTurn s) rfl rfl rfl ?_
  rcases step_inv h with ⟨r, hr⟩ | he | hd
  · exact serve_keepsInputs hr
  · exact (encoderStep_frame he).1.keepsInputs fun _ => (encoderStep_frame he).2
  · exact (decoderStep_frame hd).1.keepsInputs fun _ => (decoderStep_frame hd).2

/-- Settles O52: every move of every agent keeps the parameters and the inputs of running operations, and using up a
turn touches none of them. -/
theorem inputsAndParametersAreFixed : Obligations.InputsAndParametersAreFixed := by
  intro s t h
  obtain ⟨cfg, decoder, encoder⟩ := step_keepsInputs h
  refine ⟨cfg, decoder, fun hb => ?_⟩
  obtain ⟨pix, widthReg, heightReg, fmtReg⟩ := encoder hb
  exact ⟨pix, widthReg, heightReg, fmtReg⟩

end Sys2Proof.Machine
end

section
/-! SUPPORT. The encoder past a bound that is set: each refusal by name (R6, R98; log 10). -/

namespace Sys2Proof.Machine

/-! ## What is refused -/

/-- A set bound that is passed (R6). -/
theorem exceeds_eq_true {o : Option Nat} {n : Nat} (h : ∃ m, o = some m ∧ m < n) : Config.exceeds o n = true := by
  obtain ⟨m, rfl, hm⟩ := h
  exact decide_eq_true hm

/-- What does not fit MAX_STREAM is refused (log 10). -/
theorem emit_of_too_long {bs : List Byte} {s : State}
    (h : ∃ m, s.cfg.maxStream = some m ∧ m < s.enc.out.length + bs.length) : emit bs s = .refused .outputTooLong :=
  if_pos (exceeds_eq_true h)

/-- A counter value RUN_W bits cannot hold is refused at the Run step (log 10). -/
theorem runStep_of_overflow {cur : Pixel} {s : State} (h : ∃ w, s.cfg.runWidth = some w ∧ 2 ^ w ≤ s.enc.run + 1) :
    runStep cur s = .refused .runCounterOverflow := by
  obtain ⟨w, hw, hle⟩ := h
  exact if_pos (by rw [hw]; exact decide_eq_true hle)

/-! ## Which step the encoder takes -/

/-- The verdict is Run exactly at the previous pixel (R81). -/
theorem classify_eq_run_iff {tie : DiffTie} {cur prev : Pixel} {cache : Cache} :
    classify tie cur prev cache = .run ↔ cur = prev :=
  ⟨classify_run, fun h => if_pos ((eq4_iff cur prev).2 h)⟩

/-- At the previous pixel the pixel step is the Run step (R92, R93). -/
theorem pixelStep_of_run {s : State} {cur : Pixel} (hc : s.enc.pix[s.enc.idx]? = some cur) (h : cur = s.enc.prev) :
    pixelStep s = runStep cur s := by
  simp only [pixelStep, hc, classify_eq_run_iff.2 h]

/-- At any other pixel it is the chunk step of the verdict (R92, R94). -/
theorem pixelStep_of_chunk {s : State} {cur : Pixel} (hc : s.enc.pix[s.enc.idx]? = some cur) (h : cur ≠ s.enc.prev) :
    pixelStep s = emitChunk (classify s.cfg.diffTie cur s.enc.prev s.enc.cache) cur s := by
  have hv : classify s.cfg.diffTie cur s.enc.prev s.enc.cache ≠ .run := mt classify_run h
  simp only [pixelStep, hc]

/-- In BODY with pixels left the encoder takes a pixel step (R92). -/
theorem encoderStep_of_pixel {s : State} (hb : s.enc.phase = .body)
    (hi : s.enc.idx < area s.enc.width s.enc.height) : encoderStep s = pixelStep s := by
  rw [encoderStep, if_pos hb, if_pos hi]

/-- In BODY after the last pixel it takes FINISH (R100). -/
theorem encoderStep_of_finish {s : State} (hb : s.enc.phase = .body)
    (hi : s.enc.idx = area s.enc.width s.enc.height) : encoderStep s = encoderFinish s := by
  rw [encoderStep, if_pos hb, if_neg hi.not_lt, if_pos hi]

/-- A write of 1 to ENC_CTRL is the encoder's START (R24). -/
theorem serve_encoderStart (s : State) : serve (.writeReg 0 1) s = encoderStart (noAnswer s) := rfl

/-- An admitted START writes the header (R91). -/
theorem encoderStart_of_admitted {s : State} (hb : s.enc.phase ≠ .body)
    (hf : legalFormat (fmtChannels s.enc.fmtReg) (fmtColorspace s.enc.fmtReg) = true)
    (hl : s.enc.pix.length = area s.enc.widthReg s.enc.heightReg)
    (hm : ∀ m, s.cfg.maxPixels = some m → area s.enc.widthReg s.enc.heightReg ≤ m) :
    encoderStart s = emit (encoderHeader (beginEncode s).enc) (beginEncode s) := by
  simp [encoderStart, hb, hf, hl, exceeds_eq_false hm]

/-! ## The steps past a bound -/

/-- A chunk step whose bytes do not fit MAX_STREAM is refused (log 10). -/
theorem emitChunk_of_too_long {v : Verdict} {cur : Pixel} {s : State}
    (h : ∃ m, s.cfg.maxStream = some m ∧ m < s.enc.out.length + (flushRun s.enc.run).length + (bytesOf v).length) :
    emitChunk v cur s = .refused .outputTooLong := by
  rw [emitChunk, emit_of_too_long (by rwa [List.length_append, ← Nat.add_assoc]), andThen]

/-- FINISH whose bytes do not fit MAX_STREAM is refused (log 10). -/
theorem encoderFinish_of_too_long {s : State}
    (h : ∃ m, s.cfg.maxStream = some m ∧ m < s.enc.out.length + (flushRun s.enc.run).length + 8) :
    encoderFinish s = .refused .outputTooLong := by
  rw [encoderFinish, emit_of_too_long (by rwa [List.length_append, ← Nat.add_assoc]), andThen]

/-- Settles O60: each step is brought to its own part's refusal: the Run step, the chunk step, FINISH, and the header of
START. -/
theorem boundedEncoderStepsAreRefused : Obligations.BoundedEncoderStepsAreRefused := by
  refine ⟨fun s cur hb hi hc => ⟨fun heq hw => ?_, fun hne hm => ?_⟩, fun s hb hi hm => ?_,
    fun s hb hf hl hp hm => ?_⟩
  · rw [encoderStep_of_pixel hb hi, pixelStep_of_run hc heq, runStep_of_overflow hw]
  · rw [encoderStep_of_pixel hb hi, pixelStep_of_chunk hc hne, emitChunk_of_too_long hm]
  · rw [encoderStep_of_finish hb hi, encoderFinish_of_too_long hm]
  · have admitted : ∀ m, s.cfg.maxPixels = some m → area s.enc.widthReg s.enc.heightReg ≤ m := fun m h =>
      hl.symm.trans_le (hp m h)
    rw [serve_encoderStart, encoderStart_of_admitted (s := noAnswer s) hb hf hl admitted, emit_of_too_long]
    exact hm

end Sys2Proof.Machine
end

section
/-! SUPPORT. The invariant of the block: what each engine's operations keep of it, and that every step keeps it (R14,
R16, R17, R19 to R21, R25, R26, R149). -/

namespace Sys2Proof.Machine

/-! ## MALFORMED_TAG is not raised -/

/-- Over all 256 bytes: each matches a row of the chunk table (R56). -/
theorem rowOf_ne_none : ∀ t : Byte, rowOf t ≠ none := by decide +kernel

/-- A chunk is never rejected for its tag (R56). -/
theorem decodeChunk_ne_malformedTag (bs : List Byte) : decodeChunk bs ≠ .error .malformedTag := by
  intro h
  unfold decodeChunk at h
  split at h
  · cases h
  · split at h
    · exact rowOf_ne_none _ ‹_›
    · split at h <;> cases h

/-- Nor is one whose row is known found malformed. -/
theorem fetchPayload_ne_malformed (d : Decoder) (row : ChunkRow) : fetchPayload d row ≠ .malformed := by
  intro h
  unfold fetchPayload at h
  split at h
  · cases h
  · split at h
    · cases h
    · split at h
      · cases h
      · exact decodeChunk_ne_malformedTag _ ‹_›
      · cases h

/-- A fetch finds no malformed tag (R148): the one byte read has a row. -/
theorem fetch_ne_malformed (d : Decoder) : fetch d ≠ .malformed := by
  intro h
  unfold fetch at h
  split at h
  · cases h
  · rename_i bs hb
    have one : bs.length = 1 := Memory.readBytes_length (memRead_inv hb).2
    split at h
    · cases one
    · split at h
      · exact rowOf_ne_none _ ‹_›
      · exact fetchPayload_ne_malformed d _ h

/-! ## The decoder -/

/-- The part of the decoder's invariant that its phase and fault registers do not enter. It holds also inside START,
after the fault registers are cleared and before a check has raised. -/
structure DecoderData (d : Decoder) : Prop where
  stream : d.inp.wf
  count  : d.npix = d.out.length
  hashed : CacheHashed d.cache
  seen   : PrevSeen d.prev d.cache

theorem DecoderInv.data {d : Decoder} (h : DecoderInv d) : DecoderData d := ⟨h.stream, h.count, h.hashed, h.seen⟩

/-- Which fault kinds the decoder raises, and with which cause: a cause comes with DecodeError and with no other kind
(R146), and neither MalformedLength nor MALFORMED_TAG is among them. -/
structure Raisable (k : FaultKind) (c : Cause) : Prop where
  fault : k ≠ .none
  cause : c ≠ .none ↔ k = .decodeError
  kind  : k ≠ .malformedLength ∧ c ≠ .malformedTag

/-- Raising a fault establishes the invariant (R26, R152). -/
theorem DecoderData.raiseDec {s : State} {k : FaultKind} {c : Cause} (h : DecoderData s.dec) (hk : Raisable k c) :
    DecoderInv (raiseDec k c s).dec where
  stream := h.stream
  count  := h.count
  hashed := h.hashed
  seen   := h.seen
  failed := ⟨fun _ => hk.fault, fun _ => rfl⟩
  cause  := hk.cause
  kind   := hk.kind
  start  := nofun
  within := nofun
  marker := nofun

/-- The start of the scan establishes it, with room for header and end marker and no fault (R113). -/
theorem decoderInv_beginScan {s : State} (hm : s.dec.inp.wf) (hf : s.dec.fault = .none) (hc : s.dec.cause = .none)
    (hl : Config.headerLength + Config.endLength ≤ s.dec.inLen) : DecoderInv (beginScan s).dec where
  stream := hm
  count  := rfl
  hashed := cacheHashed_zero
  seen   := .inl rfl
  failed := by simp [hf]
  cause  := by simp [hf, hc]
  kind   := by simp [hf, hc]
  start  := fun _ => le_refl _
  within := fun _ => Nat.le_sub_of_add_le hl
  marker := fun _ => Nat.sub_add_cancel (le_trans (Nat.le_add_left _ _) hl)

/-- Producing a pixel keeps it (R116). -/
theorem DecoderInv.produce {s : State} (h : DecoderInv s.dec) (p : Pixel) : DecoderInv (produce p s).dec :=
  { h with
    count  := by simp [h.count]
    hashed := cacheHashed_remember h.hashed p
    seen   := prevSeen_remember s.dec.cache p }

/-- Producing a run keeps it (R123). -/
theorem DecoderInv.produceRun {s : State} (h : DecoderInv s.dec) (n : Nat) : DecoderInv (produceRun n s).dec := by
  induction n generalizing s with
  | zero => exact h
  | succ n ih => exact ih (h.produce s.dec.prev)

/-- Moving DEC.POS by no more than what is left before DEC.END keeps it (R114, R125). -/
theorem DecoderInv.advance {s : State} (h : DecoderInv s.dec) {n : Nat} (hn : s.dec.pos + n ≤ s.dec.limit) :
    DecoderInv (advance n s).dec :=
  { h with
    start  := fun hb => le_trans (h.start hb) (Nat.le_add_right _ _)
    within := fun _ => hn }

/-- Entering DONE keeps it, where no fault is held (R25, R127). -/
theorem DecoderInv.decoderDone {s : State} (h : DecoderInv s.dec) (hf : s.dec.fault = .none) :
    DecoderInv (decoderDone s).dec :=
  { h with
    failed := by simp [hf]
    start  := nofun
    within := nofun
    marker := nofun }

/-- In BODY no fault is held (R26). -/
theorem DecoderInv.fault_of_body {d : Decoder} (h : DecoderInv d) (hb : d.phase = .body) : d.fault = .none := by
  by_contra hf
  cases hb.symm.trans (h.failed.2 hf)

/-- A chunk that ends at or before DEC.END keeps it. -/
theorem DecoderInv.exec_chunk {i : Instr} {s t : State} (h : DecoderInv s.dec) (hp : i.place = .body)
    (hfit : s.dec.pos + i.length ≤ s.dec.limit) (he : exec i s = .next t) : DecoderInv t.dec := by
  rcases Machine.exec_chunk hp s with ⟨p, hx⟩ | ⟨n, rfl, hx⟩
  · cases hx.symm.trans he
    exact (h.produce p).advance hfit
  · cases hx.symm.trans he
    exact (h.produceRun n).advance (by rw [produceRun_eq]; exact hfit)

/-- A decoder step keeps it. -/
theorem DecoderInv.decoderStep {s t : State} (h : DecoderInv s.dec) (hs : decoderStep s = .next t) :
    DecoderInv t.dec := by
  rcases decoderStep_inv hs with
    ⟨_, rfl⟩ | ⟨hb, ⟨i, hi, he⟩ | ⟨hm, _⟩ | ⟨_, rfl⟩ | ⟨_, _, rfl⟩ | ⟨_, _, rfl⟩⟩
  · exact h
  · obtain ⟨hp, _, hfit⟩ := fetch_unit hi
    exact h.exec_chunk hp hfit he
  · exact absurd hm (fetch_ne_malformed s.dec)
  · exact h.data.raiseDec ⟨by decide, by decide, by decide⟩
  · exact h.data.raiseDec ⟨by decide, by decide, by decide⟩
  · exact h.decoderDone (h.fault_of_body hb)

/-- A decoder START keeps it: it ends in FAULT, with the header latched or not, or begins the scan (R111 to R113). -/
theorem DecoderInv.decoderStart {s t : State} (h : DecoderInv s.dec) (hs : decoderStart s = .next t) :
    DecoderInv t.dec := by
  have cleared : DecoderData (clearDecFault s).dec := ⟨h.stream, h.count, h.hashed, h.seen⟩
  have latched : ∀ w hh ch cs, DecoderData (latchHeader w hh ch cs (clearDecFault s)).dec := fun _ _ _ _ =>
    ⟨h.stream, h.count, h.hashed, h.seen⟩
  have headerError : Raisable .headerError .none := ⟨by decide, by decide, by decide⟩
  have endMarker : Raisable .decodeError .endMarker := ⟨by decide, by decide, by decide⟩
  rcases (decoderStart_inv hs).2 with rfl | rfl | ⟨w, hh, ch, cs, rfl | rfl | ⟨rfl, hl⟩⟩
  · exact cleared.raiseDec headerError
  · exact cleared.raiseDec endMarker
  · exact (latched w hh ch cs).raiseDec headerError
  · exact (latched w hh ch cs).raiseDec endMarker
  · exact decoderInv_beginScan h.stream rfl rfl hl

/-- A write of DEC.IN or DEC_INLEN outside BODY keeps it (R31). -/
theorem DecoderInv.decInputs {s t : State} (h : DecoderInv s.dec) (hi : DecInputs s t) : DecoderInv t.dec := by
  obtain ⟨hp, n, m, hm, rfl⟩ := hi
  have stream : m.wf := hm.elim (fun e => e ▸ h.stream) id
  exact { h with stream := stream, marker := fun hb => absurd hb hp }

/-! ## The encoder -/

/-- START establishes the encoder's invariant, for an admitted format and pixel count (R91). -/
theorem encoderInv_beginEncode {s : State}
    (hf : legalFormat (fmtChannels s.enc.fmtReg) (fmtColorspace s.enc.fmtReg) = true)
    (hl : s.enc.pix.length = area s.enc.widthReg s.enc.heightReg) :
    EncoderInv (beginEncode s).enc where
  phase  := nofun
  hashed := cacheHashed_zero
  seen   := .inl rfl
  format := fun _ => hf
  pixels := fun _ => hl
  index  := fun _ => Nat.zero_le _
  run    := fun _ => le_refl _
  done   := nofun

/-- An append changes ENC.OUT only (R33). -/
theorem enc_of_emit {bs : List Byte} {s t : State} (he : emit bs s = .next t) :
    t.enc = { s.enc with out := s.enc.out ++ bs } := by
  rw [(emit_eq_next.1 he).2]

/-- ENC.OUT does not enter the invariant. -/
theorem EncoderInv.emit {bs : List Byte} {s t : State} (h : EncoderInv s.enc) (he : emit bs s = .next t) :
    EncoderInv t.enc := by
  rw [enc_of_emit he]
  exact { h with }

/-- One pixel of a run counted keeps it, while pixels are left (R93). -/
theorem EncoderInv.countRun {s : State} (h : EncoderInv s.enc) (hb : s.enc.phase = .body)
    (hi : s.enc.idx < area s.enc.width s.enc.height) :
    EncoderInv (nextPixel (setRunPrev (s.enc.run + 1) s.enc.prev s)).enc :=
  { h with
    index := fun _ => hi
    run   := fun hb => Nat.succ_le_succ (h.run hb)
    done  := fun hd => by cases hb.symm.trans hd }

/-- One pixel of a chunk remembered keeps it, while pixels are left (R94). -/
theorem EncoderInv.rememberPixel {s : State} (h : EncoderInv s.enc) (hb : s.enc.phase = .body)
    (hi : s.enc.idx < area s.enc.width s.enc.height) (cur : Pixel) :
    EncoderInv (nextPixel (encRemember cur (setRunPrev 0 cur s))).enc :=
  { h with
    hashed := cacheHashed_remember h.hashed cur
    seen   := prevSeen_remember s.enc.cache cur
    index  := fun _ => hi
    run    := fun _ => Nat.zero_le _
    done   := fun hd => by cases hb.symm.trans hd }

/-- A pixel step keeps it. On Index the pixel is in its slot already, so that leaving out the write leaves what the
write would have left (R96). -/
theorem EncoderInv.pixelStep {s t : State} (h : EncoderInv s.enc) (hb : s.enc.phase = .body)
    (hi : s.enc.idx < area s.enc.width s.enc.height) (hs : pixelStep s = .next t) : EncoderInv t.enc := by
  obtain ⟨cur, _, ⟨hv, rfl⟩ | ⟨_, u, hu, rfl⟩⟩ := pixelStep_inv hs
  · rw [classify_run hv]
    exact h.countRun hb hi
  · have emitted := h.emit hu
    have enc := enc_of_emit hu
    have hit : ∀ k, classify s.cfg.diffTie cur s.enc.prev s.enc.cache = .index k →
        slot u.enc.cache (pixelHash cur) = cur := fun _ hk => by
      rw [enc]; exact (classify_index hk).2
    rw [rememberUnlessIndex_eq (s := setRunPrev 0 cur u) hit]
    exact emitted.rememberPixel (by rw [enc]; exact hb) (by rw [enc]; exact hi) cur

/-- FINISH keeps it, at the last pixel (R100). -/
theorem EncoderInv.finish {s : State} (h : EncoderInv s.enc) (hi : s.enc.idx = area s.enc.width s.enc.height) :
    EncoderInv (encoderDone (clearRun s)).enc :=
  { h with
    phase  := nofun
    format := nofun
    pixels := nofun
    index  := nofun
    run    := nofun
    done   := fun _ => ⟨hi, rfl⟩ }

/-- An encoder step keeps it. -/
theorem EncoderInv.encoderStep {s t : State} (h : EncoderInv s.enc) (hs : encoderStep s = .next t) :
    EncoderInv t.enc := by
  rcases encoderStep_inv hs with ⟨_, rfl⟩ | ⟨hb, hi, hp⟩ | ⟨_, hi, u, hu, rfl⟩
  · exact h
  · exact h.pixelStep hb hi hp
  · exact (h.emit hu).finish (by rw [enc_of_emit hu]; exact hi)

/-- An encoder START establishes it. -/
theorem EncoderInv.of_encoderStart {s t : State} (hs : encoderStart s = .next t) : EncoderInv t.enc := by
  obtain ⟨_, hf, hl, _, he⟩ := encoderStart_inv hs
  exact (encoderInv_beginEncode hf hl).emit he

/-- A write of ENC.PIX or a configuration register outside BODY keeps it (R31). -/
theorem EncoderInv.encInputs {s t : State} (h : EncoderInv s.enc) (hi : EncInputs s t) : EncoderInv t.enc := by
  obtain ⟨hp, w, hh, f, ps, rfl⟩ := hi
  exact { h with pixels := fun hb => absurd hb hp }

/-! ## The block -/

/-- A move that writes the decoder only keeps the invariant if it keeps the decoder's. -/
theorem SameOutsideDecoder.inv {s t : State} (h : SameOutsideDecoder s t) (hs : Inv s) (hd : DecoderInv t.dec) :
    Inv t :=
  ⟨hd, h.enc.symm ▸ hs.enc⟩

/-- A move that writes the encoder only keeps the invariant if it keeps the encoder's. -/
theorem SameOutsideEncoder.inv {s t : State} (h : SameOutsideEncoder s t) (hs : Inv s) (he : EncoderInv t.enc) :
    Inv t :=
  ⟨h.dec.symm ▸ hs.dec, he⟩

/-- A host request keeps the invariant. -/
theorem Inv.serve {r : Request} {s t : State} (hs : Inv s) (h : serve r s = .next t) : Inv t := by
  have noReply : Inv (noAnswer s) := ⟨hs.dec, hs.enc⟩
  rcases serve_inv h with hd | he | hi | hi | ⟨_, _, _, rfl⟩
  · exact (decoderStart_outside hd).inv noReply (noReply.dec.decoderStart hd)
  · exact (encoderStart_outside he).inv noReply (.of_encoderStart he)
  · have kept := hs.enc.encInputs hi
    obtain ⟨_, _, _, _, _, rfl⟩ := hi
    exact ⟨hs.dec, kept⟩
  · have kept := hs.dec.decInputs hi
    obtain ⟨_, _, _, _, rfl⟩ := hi
    exact ⟨kept, hs.enc⟩
  · exact ⟨hs.dec, hs.enc⟩

/-- Settles O50: using up a turn touches neither engine, and each move, of the host or of an engine, keeps the
invariant. -/
theorem stepKeepsInvariant : Obligations.StepKeepsInvariant := by
  intro s t hs h
  have popped : Inv (popTurn s) := ⟨hs.dec, hs.enc⟩
  rcases step_inv h with ⟨r, hr⟩ | he | hd
  · exact popped.serve hr
  · exact (encoderStep_frame he).1.inv popped (popped.enc.encoderStep he)
  · exact (decoderStep_frame hd).1.inv popped (popped.dec.decoderStep hd)

end Sys2Proof.Machine
end

section
/-! SUPPORT. The engines share nothing: replacing one engine commutes with everything the other does (R10). -/

namespace Sys2Proof.Machine

/-! ## An outcome with its next state mapped -/

@[simp] theorem mapNext_next (f : State → State) (s : State) : mapNext f (.next s) = .next (f s) := rfl
@[simp] theorem mapNext_fault (f : State → State) (r : Fault) : mapNext f (.fault r) = .fault r := rfl
@[simp] theorem mapNext_refused (f : State → State) (r : Refusal) : mapNext f (.refused r) = .refused r := rfl

/-- Mapping goes into both branches of a test. -/
@[simp] theorem mapNext_ite (f : State → State) (c : Prop) [Decidable c] (a b : Result) :
    mapNext f (if c then a else b) = if c then mapNext f a else mapNext f b :=
  apply_ite (mapNext f) c a b

/-- Mapping goes through a sequence whose second part commutes with it. -/
theorem andThen_mapNext {f : State → State} {g : State → Result} (hg : ∀ s, g (f s) = mapNext f (g s)) (r : Result) :
    andThen (mapNext f r) g = mapNext f (andThen r g) := by
  cases r with
  | next s => exact hg s
  | fault r => rfl
  | refused r => rfl

/-! ## Replacing the encoder -/

/-- The state with another encoder. -/
def replaceEnc (e : Encoder) (s : State) : State := { s with enc := e }

section
variable (e : Encoder) (s : State)

@[simp] theorem replaceEnc_cfg : (replaceEnc e s).cfg = s.cfg := rfl
@[simp] theorem replaceEnc_dec : (replaceEnc e s).dec = s.dec := rfl

theorem raiseDec_replaceEnc (k : FaultKind) (c : Cause) :
    raiseDec k c (replaceEnc e s) = replaceEnc e (raiseDec k c s) := rfl

/-- The test on the header's area commutes with it. -/
theorem checkHeaderArea_replaceEnc :
    checkHeaderArea (replaceEnc e s) = mapNext (replaceEnc e) (checkHeaderArea s) := by
  rw [checkHeaderArea, checkHeaderArea, mapNext_ite]; rfl

/-- HEADER commutes with it, under each of the three policies. -/
theorem execHeader_replaceEnc (w h : Word) (ch cs : Byte) :
    execHeader w h ch cs (replaceEnc e s) = mapNext (replaceEnc e) (execHeader w h ch cs s) := by
  have latched : latchHeader w h ch cs (replaceEnc e s) = replaceEnc e (latchHeader w h ch cs s) := rfl
  simp only [execHeader, latched, checkHeaderArea_replaceEnc, raiseDec_replaceEnc, mapNext_ite, replaceEnc_cfg]
  cases s.cfg.badFmtPolicy <;> rfl

/-- Every unit commutes with it. -/
theorem exec_replaceEnc (i : Instr) : exec i (replaceEnc e s) = mapNext (replaceEnc e) (exec i s) := by
  cases i with
  | run n => simp only [exec, execRun, produceRun_eq]; rfl
  | header w h ch cs => exact execHeader_replaceEnc e s w h ch cs
  | _ => rfl

/-- The chunk step commutes with it: what is fetched depends on the decoder only. -/
theorem chunkStep_replaceEnc : chunkStep (replaceEnc e s) = mapNext (replaceEnc e) (chunkStep s) := by
  simp only [chunkStep, replaceEnc_dec]
  cases fetch s.dec with
  | unit i => exact exec_replaceEnc e s i
  | _ => rfl

/-- A decoder step commutes with it. -/
theorem decoderStep_replaceEnc : decoderStep (replaceEnc e s) = mapNext (replaceEnc e) (decoderStep s) := by
  have finish : decoderFinish (replaceEnc e s) = mapNext (replaceEnc e) (decoderFinish s) := by
    rw [decoderFinish, decoderFinish, mapNext_ite]; rfl
  simp only [decoderStep, replaceEnc_dec, chunkStep_replaceEnc, finish, mapNext_ite, mapNext_next, mapNext_fault]

/-- Check 4 of START commutes with it. -/
theorem startCheckEnd_replaceEnc : startCheckEnd (replaceEnc e s) = mapNext (replaceEnc e) (startCheckEnd s) := by
  simp only [startCheckEnd, replaceEnc_dec, mapNext_ite]
  cases memRead s.dec (s.dec.inLen - Config.endLength) Config.endLength with
  | error f => rfl
  | ok bs =>
    dsimp only
    cases decode .tail bs with
    | error r => rfl
    | ok unit => simp only [exec_replaceEnc, mapNext_next]

/-- Checks 2 and 3 of START commute with it. -/
theorem startCheckHeader_replaceEnc :
    startCheckHeader (replaceEnc e s) = mapNext (replaceEnc e) (startCheckHeader s) := by
  simp only [startCheckHeader, replaceEnc_dec, mapNext_ite]
  cases memRead s.dec 0 Config.headerLength with
  | error f => rfl
  | ok bs =>
    dsimp only
    cases decode .head bs with
    | error r => rfl
    | ok unit =>
      simp only [exec_replaceEnc, andThen_mapNext (startCheckEnd_replaceEnc e), mapNext_next, raiseDec_replaceEnc]

/-- Check 1 of START, and those after it, commute with it. -/
theorem startCheckMagic_replaceEnc :
    startCheckMagic (replaceEnc e s) = mapNext (replaceEnc e) (startCheckMagic s) := by
  simp only [startCheckMagic, replaceEnc_dec, mapNext_ite]
  cases memRead s.dec 0 4 with
  | error f => rfl
  | ok bs => simp only [startCheckHeader_replaceEnc, mapNext_ite, mapNext_next, raiseDec_replaceEnc]

/-- A decoder START commutes with it. -/
theorem decoderStart_replaceEnc : decoderStart (replaceEnc e s) = mapNext (replaceEnc e) (decoderStart s) := by
  have cleared : clearDecFault (replaceEnc e s) = replaceEnc e (clearDecFault s) := rfl
  simp only [decoderStart, replaceEnc_dec, replaceEnc_cfg, cleared, startCheckMagic_replaceEnc, mapNext_ite,
    mapNext_refused]

end

/-! ## Replacing the decoder -/

/-- The state with another decoder. -/
def replaceDec (d : Decoder) (s : State) : State := { s with dec := d }

section
variable (d : Decoder) (s : State)

@[simp] theorem replaceDec_cfg : (replaceDec d s).cfg = s.cfg := rfl
@[simp] theorem replaceDec_enc : (replaceDec d s).enc = s.enc := rfl

/-- An append commutes with it. -/
theorem emit_replaceDec (bs : List Byte) : emit bs (replaceDec d s) = mapNext (replaceDec d) (emit bs s) := by
  simp only [emit, mapNext_ite]; rfl

/-- A Run step commutes with it. -/
theorem runStep_replaceDec (cur : Pixel) :
    runStep cur (replaceDec d s) = mapNext (replaceDec d) (runStep cur s) := by
  simp only [runStep, mapNext_ite]; rfl

/-- A chunk step commutes with it, whether or not it writes the cache. -/
theorem emitChunk_replaceDec (v : Verdict) (cur : Pixel) :
    emitChunk v cur (replaceDec d s) = mapNext (replaceDec d) (emitChunk v cur s) := by
  rw [emitChunk, emit_replaceDec]
  refine andThen_mapNext (fun t => ?_) _
  cases v <;> rfl

/-- A pixel step commutes with it: the verdict depends on the parameters and the encoder only. -/
theorem pixelStep_replaceDec : pixelStep (replaceDec d s) = mapNext (replaceDec d) (pixelStep s) := by
  simp only [pixelStep, replaceDec_enc, replaceDec_cfg]
  cases s.enc.pix[s.enc.idx]? with
  | none => rfl
  | some cur =>
    dsimp only
    cases classify s.cfg.diffTie cur s.enc.prev s.enc.cache with
    | run => exact runStep_replaceDec d s cur
    | _ => exact emitChunk_replaceDec d s _ cur

/-- FINISH commutes with it. -/
theorem encoderFinish_replaceDec : encoderFinish (replaceDec d s) = mapNext (replaceDec d) (encoderFinish s) := by
  rw [encoderFinish, emit_replaceDec]
  exact andThen_mapNext (fun _ => rfl) _

/-- An encoder step commutes with it. -/
theorem encoderStep_replaceDec : encoderStep (replaceDec d s) = mapNext (replaceDec d) (encoderStep s) := by
  simp only [encoderStep, replaceDec_enc, pixelStep_replaceDec, encoderFinish_replaceDec, mapNext_ite, mapNext_next,
    mapNext_fault]

/-- An encoder START commutes with it. -/
theorem encoderStart_replaceDec : encoderStart (replaceDec d s) = mapNext (replaceDec d) (encoderStart s) := by
  have begun : beginEncode (replaceDec d s) = replaceDec d (beginEncode s) := rfl
  simp only [encoderStart, begun, replaceDec_enc, replaceDec_cfg, emit_replaceDec, mapNext_ite, mapNext_refused]

end

/-- A write of 1 to DEC_CTRL is the decoder's START (R24). -/
theorem serve_decoderStart (s : State) : serve (.writeReg 8 1) s = decoderStart (noAnswer s) := rfl

/-- Settles O54: each engine's step and START commute with replacing the other, and the frames of the steps. -/
theorem enginesShareNothing : Obligations.EnginesShareNothing := fun s e d =>
  ⟨decoderStep_replaceEnc e s, encoderStep_replaceDec d s, decoderStart_replaceEnc e (noAnswer s),
    encoderStart_replaceDec d (noAnswer s), fun _ h => (decoderStep_frame h).1.enc,
    fun _ h => (encoderStep_frame h).1.dec⟩

end Sys2Proof.Machine
end

section
/-! SUPPORT. The registers as the host sees them: the codes of the status words, what a read answers, what a write
leaves, and which accesses are refused (R24, R31, R32, R34, R146, R147, R158, R168, R174). -/

namespace Sys2Proof.Machine

/-! ## Codes -/

/-- Phases are told apart by their codes (R24). -/
theorem Phase.code_inj {p q : Phase} : p.code = q.code ↔ p = q := by
  cases p <;> cases q <;> decide

theorem Phase.code_lt (p : Phase) : p.code < 4 := by cases p <;> decide

/-- Fault kinds are told apart by their codes (R146). -/
theorem FaultKind.code_inj {k l : FaultKind} : k.code = l.code ↔ k = l := by
  cases k <;> cases l <;> decide

theorem FaultKind.code_lt (k : FaultKind) : k.code < 8 := by cases k <;> decide

/-- Causes are told apart by their codes (R146). -/
theorem Cause.code_inj {c c' : Cause} : c.code = c'.code ↔ c = c' := by
  cases c <;> cases c' <;> decide

/-- The fields of DEC_STATUS and the gaps between them (R24). -/
theorem decStatus_fields (d : Decoder) :
    decStatus d % 8 = d.phase.code ∧ decStatus d / 8 % 2 = 0 ∧ decStatus d / 16 % 8 = d.fault.code ∧
      decStatus d / 128 % 2 = 0 ∧ decStatus d / 256 = d.cause.code := by
  have hp := d.phase.code_lt
  have hf := d.fault.code_lt
  simp only [decStatus]
  omega

/-- The field of IMG_STATUS and the gap below it (R24). -/
theorem imgStatus_fields (k : FaultKind) : imgStatus k % 16 = 0 ∧ imgStatus k / 16 = k.code := by
  simp only [imgStatus]
  omega

/-- The fields of a FMT word (R24). -/
theorem fmtWord_fields (ch cs : Byte) :
    fmtWord ch cs % 2 ^ 8 = ch.toNat ∧ fmtWord ch cs / 2 ^ 8 = cs.toNat := by
  have := ch.isLt
  simp only [fmtWord]
  omega

/-- Settles O40: each status word is taken apart into its fields, and a field is a code exactly where the thing coded is
held. -/
theorem statusWordsCarryCodes : Obligations.StatusWordsCarryCodes := by
  intro s
  obtain ⟨phase, gap3, fault, gap7, cause⟩ := decStatus_fields s.dec
  obtain ⟨gap, imgFault⟩ := imgStatus_fields s.imgFault
  refine ⟨encStatus s.enc, decStatus s.dec, imgStatus s.imgFault, rfl, rfl, rfl, ?_⟩
  rw [phase, fault, cause, imgFault]
  exact ⟨Phase.code_inj (q := .idle), Phase.code_inj (q := .body), Phase.code_inj (q := .done),
    Phase.code_inj (q := .fault),
    Phase.code_inj (q := .idle), Phase.code_inj (q := .body), Phase.code_inj (q := .done),
    Phase.code_inj (q := .fault), gap3,
    FaultKind.code_inj (l := .none), FaultKind.code_inj (l := .malformedLength),
    FaultKind.code_inj (l := .pixelCountMismatch), FaultKind.code_inj (l := .decodeError),
    FaultKind.code_inj (l := .headerError), gap7,
    Cause.code_inj (c' := .none), Cause.code_inj (c' := .endMarker), Cause.code_inj (c' := .malformedTag),
    Cause.code_inj (c' := .truncatedChunk), gap,
    FaultKind.code_inj (l := .none), FaultKind.code_inj (l := .malformedLength),
    FaultKind.code_inj (l := .pixelCountMismatch)⟩

/-! ## Configuration registers of the encoder -/

/-- The encoder's configuration registers, by number (R24). -/
def IsEncConfig (n : Nat) : Prop := n = 2 ∨ n = 3 ∨ n = 4

/-- What the configuration register of a number holds; 4 is ENC_FMT. -/
def encConfig (n : Nat) (e : Encoder) : Word :=
  if n = 2 then e.widthReg else if n = 3 then e.heightReg else e.fmtReg

/-- The encoder with the configuration register of a number set. -/
def setEncConfig (n : Nat) (w : Word) (e : Encoder) : Encoder :=
  if n = 2 then { e with widthReg := w } else if n = 3 then { e with heightReg := w } else { e with fmtReg := w }

/-- A register set holds what it was set to. -/
theorem encConfig_set_same (n : Nat) (w : Word) (e : Encoder) : encConfig n (setEncConfig n w e) = w := by
  unfold encConfig setEncConfig
  split
  · rfl
  · split <;> rfl

/-- The other registers hold what they held. -/
theorem encConfig_set_other {n m : Nat} (hn : IsEncConfig n) (hm : IsEncConfig m) (h : m ≠ n) (w : Word) (e : Encoder) :
    encConfig m (setEncConfig n w e) = encConfig m e := by
  rcases hn with rfl | rfl | rfl
  · rcases hm.resolve_left h with rfl | rfl <;> rfl
  · rcases hm with rfl | hm
    · rfl
    · rw [hm.resolve_left h]; rfl
  · rcases hm with rfl | rfl | rfl
    · rfl
    · rfl
    · exact absurd rfl h

/-- Setting a register changes nothing else of the encoder. -/
theorem setEncConfig_frame (n : Nat) (w : Word) (e : Encoder) :
    setEncConfig n w e =
      { e with
        widthReg := (setEncConfig n w e).widthReg
        heightReg := (setEncConfig n w e).heightReg
        fmtReg := (setEncConfig n w e).fmtReg } := by
  unfold setEncConfig
  split
  · rfl
  · split <;> rfl

/-- A read of a configuration register answers what it holds. -/
theorem serve_readEncConfig {n : Nat} (hn : IsEncConfig n) (s : State) :
    serve (.readReg n) s = .next { s with reply := some (.value (encConfig n s.enc).toNat) } := by
  rcases hn with rfl | rfl | rfl <;> rfl

/-- A write of a configuration register sets it, if it is let through; a reserved bit of ENC_FMT is not (R24). -/
theorem serve_writeReg_encConfig {n v : Nat} (hn : IsEncConfig n) (hr : n = 4 → v < 2 ^ 16) (s : State) :
    serve (.writeReg n v) s = writeEncConfig n v (setEncConfig n) s := by
  rcases hn with rfl | rfl | rfl
  · rfl
  · rfl
  · have unreserved : ¬ (2 ^ 16 ≤ v ∧ v < 2 ^ 32) := fun h => absurd (hr rfl) h.1.not_gt
    exact if_neg unreserved

/-- A value that fits, written to a configuration register outside BODY, is taken (R24). -/
theorem serve_writeEncConfig {n v : Nat} {s : State} (hn : IsEncConfig n) (hb : s.enc.phase ≠ .body)
    (hv : v < if n = 4 then 2 ^ 16 else 2 ^ 32) :
    serve (.writeReg n v) s = .next (noAnswer { s with enc := setEncConfig n (BitVec.ofNat 32 v) s.enc }) := by
  have fits : ¬ 2 ^ 32 ≤ v := by split at hv <;> omega
  rw [serve_writeReg_encConfig hn fun h => by rwa [if_pos h] at hv, writeEncConfig, if_neg hb, if_neg fits]

/-- In BODY it is refused (R24, R158). -/
theorem serve_writeEncConfig_in_body {n v : Nat} {s : State} (hn : IsEncConfig n) (hb : s.enc.phase = .body)
    (hr : n = 4 → v < 2 ^ 16) : serve (.writeReg n v) s = .refused .configWriteDuringBody := by
  rw [serve_writeReg_encConfig hn hr, writeEncConfig, if_pos hb]

/-- What the register then answers is the value written. -/
theorem toNat_encConfig_set {n v : Nat} (hv : v < if n = 4 then 2 ^ 16 else 2 ^ 32) (e : Encoder) :
    (encConfig n (setEncConfig n (BitVec.ofNat 32 v) e)).toNat = v := by
  rw [encConfig_set_same, BitVec.toNat_ofNat, Nat.mod_eq_of_lt]
  split at hv <;> omega

/-! ## The stream and its length -/

/-- Writing bytes leaves the offsets beyond them alone. -/
theorem Memory.read_writeBytes_beyond (m : Memory) {a x : Nat} (bs : List Byte) (h : a + bs.length ≤ x) :
    (m.writeBytes a bs).read x = m.read x := by
  induction bs generalizing m a with
  | nil => rfl
  | cons b bs ih =>
    have hx : a + (bs.length + 1) ≤ x := h
    rw [writeBytes, ih _ (by omega), read_write_other _ _ (by omega)]

/-- A stream put in place leaves no byte beyond it (log 6). -/
theorem Memory.read_ofBytes_beyond (bs : List Byte) {a : Nat} (h : bs.length ≤ a) : (Memory.ofBytes bs).read a = none :=
  read_writeBytes_beyond Memory.empty bs (by omega)

/-- A length written outside BODY is taken (R24). -/
theorem serve_writeInLen {s : State} (hb : s.dec.phase ≠ .body) (v : Nat) :
    serve (.writeReg 10 v) s = .next (noAnswer { s with dec := { s.dec with inLen := v } }) :=
  if_neg hb

/-- A stream handed over outside BODY is DEC.IN (R32, R168). -/
theorem serve_loadStream {s : State} (hb : s.dec.phase ≠ .body) (bs : List Byte) :
    serve (.loadStream bs) s = .next (noAnswer { s with dec := { s.dec with inp := Memory.ofBytes bs } }) :=
  if_neg hb

/-- Settles O41: what each write and each hand-over leaves, and what the reads then answer. -/
theorem hostInputsAreHeld : Obligations.HostInputsAreHeld := by
  refine fun s v => ⟨fun hb n hn hv => ?_, fun hb => ?_, fun hb bs => ?_, fun hb ps => if_neg hb⟩
  · refine ⟨_, serve_writeEncConfig hn hb hv, ?_, fun m hm hc => ?_, ⟨rfl, rfl, rfl, rfl, rfl, rfl⟩,
      setEncConfig_frame n _ s.enc⟩
    · rw [serve_readEncConfig hn, noAnswer_enc, toNat_encConfig_set hv]
    · refine ⟨_, serve_readEncConfig hc _, ?_⟩
      rw [serve_readEncConfig hc, noAnswer_enc, encConfig_set_other hn hc hm]
  · exact ⟨_, serve_writeInLen hb v, rfl, rfl⟩
  · refine ⟨_, _, serve_loadStream hb bs, rfl, Memory.ofBytes_wf bs, fun a ha => Memory.read_ofBytes_beyond bs ha,
      serve_writeInLen ?_ bs.length, ?_⟩
    · exact hb
    · exact ⟨rfl, fun k b hk => Memory.read_ofBytes bs k b hk⟩

/-! ## Refused accesses -/

/-- Registers 7 and 17 up do not exist (R24). -/
theorem regOf_eq_none {n : Nat} (h : n = 7 ∨ 17 ≤ n) : regOf n = none := by
  rcases h with rfl | h
  · rfl
  · obtain ⟨k, rfl⟩ := Nat.exists_eq_add_of_le' h
    rfl

theorem serve_readReg_missing {n : Nat} (h : regOf n = none) (s : State) :
    serve (.readReg n) s = .refused (.noSuchRegister n) := by
  simp only [serve, readReg, h]

theorem serve_writeReg_missing {n : Nat} (h : regOf n = none) (v : Nat) (s : State) :
    serve (.writeReg n v) s = .refused (.noSuchRegister n) := by
  simp only [serve, writeReg, h]

/-- A reserved bit of a CTRL register is refused (R24). -/
theorem writeCtrl_reserved {v : Nat} (h2 : 2 ≤ v) (hv : v < 2 ^ 32) (n : Nat) (start : State → Result) (s : State) :
    writeCtrl n v start s = .refused (.reservedBits n) := by
  rw [writeCtrl, if_neg (by omega), if_pos (by omega)]

/-- A write of a read-only register is refused (R24). -/
theorem serve_writeReg_readOnly {n : Nat} (h : n = 1 ∨ n = 5 ∨ n = 6 ∨ n = 9 ∨ (11 ≤ n ∧ n ≤ 16)) (v : Nat)
    (s : State) : serve (.writeReg n v) s = .refused (.writeOfReadOnly n) := by
  rcases h with rfl | rfl | rfl | rfl | ⟨hl, hu⟩
  case inr.inr.inr.inr => interval_cases n <;> rfl
  all_goals rfl

/-- Settles O42: by the number for the access column, by the value for reserved bits, by the phase for the rest. -/
theorem accessColumnIsEnforced : Obligations.AccessColumnIsEnforced := by
  refine fun s v => ⟨fun n hn => ?_, fun n hn => ?_, fun n hn => serve_writeReg_readOnly hn v s,
    fun hl hu => if_pos ⟨hl, hu⟩, fun hb => ?_, fun hb => ?_⟩
  · exact ⟨serve_readReg_missing (regOf_eq_none hn) s, serve_writeReg_missing (regOf_eq_none hn) v s⟩
  · rcases hn with rfl | rfl
    · exact ⟨rfl, fun h2 hv => writeCtrl_reserved h2 hv 0 _ s⟩
    · exact ⟨rfl, fun h2 hv => writeCtrl_reserved h2 hv 8 _ s⟩
  · exact ⟨if_pos hb, serve_writeEncConfig_in_body (.inl rfl) hb nofun,
      serve_writeEncConfig_in_body (.inr (.inl rfl)) hb nofun,
      fun hv => serve_writeEncConfig_in_body (.inr (.inr rfl)) hb fun _ => hv, fun ps => if_pos hb⟩
  · exact ⟨if_pos hb, if_pos hb, fun bs => if_pos hb⟩

/-! ## What reads answer -/

/-- Settles O44: ENC_OUTLEN by the encoder's phase, the diagnostics by whether they are open. -/
theorem unspecifiedReadsAreFree : Obligations.UnspecifiedReadsAreFree := by
  intro s
  have opened : diagnosticsOpen s.dec = true ↔
      s.dec.phase = .fault ∧ (s.dec.fault = .headerError ∨ s.dec.cause = .endMarker) := by
    simp [diagnosticsOpen]
  refine ⟨fun hd => if_pos hd, fun hd => ⟨_, if_neg hd⟩, fun hn => ?_, fun hp hk => ?_⟩
  · have closed : ¬ diagnosticsOpen s.dec = true := mt opened.1 hn
    exact ⟨if_neg closed, if_neg closed⟩
  · exact ⟨⟨_, if_pos (opened.2 ⟨hp, hk⟩)⟩, ⟨_, if_pos (opened.2 ⟨hp, hk⟩)⟩⟩

/-- A result register answers in DONE and IDLE (R174, log 13). -/
theorem answerResult_available {s : State} (h : s.dec.phase = .done ∨ s.dec.phase = .idle) (v : Nat) :
    answerResult v s = .next { s with reply := some (.value v) } := by
  rcases h with h | h <;> simp only [answerResult, h] <;> rfl

/-- It is refused in BODY and in FAULT (R174). -/
theorem answerResult_refused {s : State} (h : s.dec.phase = .body ∨ s.dec.phase = .fault) (v : Nat) :
    answerResult v s = .refused .resultNotAvailable := by
  rcases h with h | h <;> simp only [answerResult, h]

/-- Settles O59: the result registers by phase, DEC_FMT taken apart into its two fields. -/
theorem readOnlyRegistersAnswer : Obligations.ReadOnlyRegistersAnswer := by
  refine fun s => ⟨rfl, fun h => ?_, fun h n hn => ?_⟩
  · exact ⟨answerResult_available h _, answerResult_available h _, _, answerResult_available h _,
      fmtWord_fields s.dec.channels s.dec.colorspace⟩
  · rcases hn with rfl | rfl | rfl <;> exact answerResult_refused h _

end Sys2Proof.Machine
end

section
/-! SUPPORT. Whose move a step is, and the state after power-on (R10, R25, R26, R29). -/

namespace Sys2Proof.Machine

/-- With a turn at the head of the agenda, the step is that turn, on the state with it used up (log 1). -/
theorem step_of_turn {s : State} {t : Turn} {rest : List Turn} (h : s.agenda = t :: rest) :
    step s = takeTurn t { s with agenda := rest } := by
  simp only [step, move, h]

/-- With nothing on the agenda, the step is the block's own (log 1). -/
theorem step_of_empty {s : State} (h : s.agenda = []) : step s = idleTurn s := by
  simp only [step, move, h]

/-- Settles O48: the turn at the head of the agenda, else the engine in BODY, the decoder before the encoder. -/
theorem stepTakesTheNextTurn : Obligations.StepTakesTheNextTurn := by
  refine fun s => ⟨fun r rest h => step_of_turn h, fun rest h => step_of_turn h, fun rest h => step_of_turn h,
    fun h hd => ?_, fun h hd _ => ?_, fun h hd he => ?_⟩
  · exact (step_of_empty h).trans (if_pos hd)
  · exact (step_of_empty h).trans (if_neg hd)
  · exact ((step_of_empty h).trans (if_neg hd)).trans (if_neg he)

/-- The reset values meet the invariant: nothing is held, and both caches are the initial one (log 4). -/
theorem reset_inv : Inv State.reset where
  dec :=
    { stream := Memory.empty_wf, count := rfl, hashed := cacheHashed_zero, seen := .inl rfl, failed := by decide,
      cause := by decide, kind := by decide, start := nofun, within := nofun, marker := nofun }
  enc :=
    { phase := nofun, hashed := cacheHashed_zero, seen := .inl rfl, format := nofun, pixels := nofun, index := nofun,
      run := nofun, done := nofun }

/-- They meet the size bounds: no operation runs or has run. -/
theorem reset_size : SizeInv State.reset := ⟨nofun, nofun, nofun, nofun, nofun, nofun, nofun⟩

/-- Settles O49: the phases and fault codes at reset are as R29 asks, and the invariants hold there. -/
theorem powerOnState : Obligations.PowerOnState := ⟨rfl, rfl, rfl, rfl, rfl, reset_inv, reset_size⟩

end Sys2Proof.Machine
end

section
/-! SUPPORT. The three memories: the bytes of the header, MemRead and its two stops, the results in DONE, and the outputs
of running engines (R22, R32, R33, R34, R35, R46, R116, R128, R158). -/

namespace Sys2Proof

/-- A byte of a 32-bit value by division is the field of its bits (R7). -/
theorem ofNat_div_eq_extractLsb' (v : Word) (low : Nat) :
    (BitVec.ofNat 8 (v.toNat / 2 ^ low) : Byte) = v.extractLsb' low 8 := by
  rw [BitVec.extractLsb', Nat.shiftRight_eq_div_pow]

/-- The four bytes of a 32-bit value are its fields of eight bits, from the top (R35). -/
theorem u32be_eq_fields (v : Word) :
    u32be v = [v.extractLsb' 24 8, v.extractLsb' 16 8, v.extractLsb' 8 8, v.extractLsb' 0 8] := by
  simp only [← ofNat_div_eq_extractLsb', pow_zero, Nat.div_one]
  rfl

/-- Settles O10: the magic, then both sizes by their fields of eight bits. -/
theorem headerIsBigEndian : Obligations.HeaderIsBigEndian := by
  intro w h ch cs
  rw [encode, u32be_eq_fields, u32be_eq_fields]
  rfl

namespace Machine

/-! ## MemRead -/

/-- A range with a hole in it does not read (log 6). -/
theorem Memory.readBytes_eq_none {m : Memory} {a n k : Nat} (hk : k < n) (h : m.read (a + k) = none) :
    m.readBytes a n = none := by
  induction n generalizing a k with
  | zero => cases hk
  | succ n ih =>
    cases k with
    | zero =>
      have here : m.read a = none := h
      simp only [readBytes, here]
    | succ k =>
      have later : m.readBytes (a + 1) n = none :=
        ih (Nat.lt_of_succ_lt_succ hk) (by rwa [show a + 1 + k = a + (k + 1) by omega])
      rw [readBytes, later]
      cases m.read a <;> rfl

/-- Past DEC_INLEN MemRead stops (log 6). -/
theorem memRead_outside {d : Decoder} {a n : Nat} (h : d.inLen < a + n) : memRead d a n = .error .outsideStream :=
  if_pos h

/-- Below DEC_INLEN it stops at a hole (log 6). -/
theorem memRead_unwritten {d : Decoder} {a n k : Nat} (hl : a + n ≤ d.inLen) (hk : k < n)
    (h : d.inp.read (a + k) = none) : memRead d a n = .error .unwrittenByte := by
  rw [memRead, if_neg hl.not_gt, Memory.readBytes_eq_none hk h]

/-- Settles O12: past the end, all bytes in place, and a hole. -/
theorem streamReadIsBounded : Obligations.StreamReadIsBounded := by
  refine fun d a n => ⟨memRead_outside, fun hl bs hn hb => ?_, fun hl k hk h => memRead_unwritten hl hk h⟩
  subst hn
  exact memRead_of_bytes hl hb

/-! ## Results -/

/-- Settles O43: each of the three reads asks for DONE, and answers what the engine holds. -/
theorem resultsOnlyInDone : Obligations.ResultsOnlyInDone := fun _ =>
  ⟨fun done => if_pos done, fun other => if_neg other, fun done => ⟨if_pos done, if_pos done⟩,
    fun other => ⟨if_neg other, if_neg other⟩⟩

/-! ## Outputs of running engines -/

/-- ENC.OUT is extended at its end (R33). -/
def EncOutGrows (s t : State) : Prop := ∃ bs, t.enc.out = s.enc.out ++ bs

/-- DEC.OUT is extended at its end, and DEC.NPIX counts what was added (R22, R116). -/
def DecOutGrows (s t : State) : Prop := ∃ ps, t.dec.out = s.dec.out ++ ps ∧ t.dec.npix = s.dec.npix + ps.length

theorem EncOutGrows.of_out_eq {s t : State} (h : t.enc.out = s.enc.out) : EncOutGrows s t :=
  ⟨[], by rw [h, List.append_nil]⟩

theorem DecOutGrows.of_eq {s t : State} (h : t.dec = s.dec) : DecOutGrows s t :=
  ⟨[], by rw [h, List.append_nil], by rw [h]; rfl⟩

/-- Raising a fault keeps the decoder's output and count (R152). -/
theorem decOutGrows_raiseDec (k : FaultKind) (c : Cause) (s : State) : DecOutGrows s (raiseDec k c s) :=
  ⟨[], (List.append_nil _).symm, rfl⟩

/-- A chunk appends the pixels it counts (R116, R123). -/
theorem exec_chunk_grows {i : Instr} {s t : State} (hp : i.place = .body) (h : exec i s = .next t) :
    DecOutGrows s t := by
  rcases exec_chunk hp s with ⟨p, he⟩ | ⟨n, _, he⟩
  · cases he.symm.trans h
    exact ⟨[p], rfl, rfl⟩
  · cases he.symm.trans h
    rw [produceRun_eq]
    exact ⟨List.replicate n s.dec.prev, rfl, by rw [List.length_replicate]; rfl⟩

/-- A decoder step appends to DEC.OUT; only a chunk adds anything (R114, R116, R127). -/
theorem decoderStep_grows {s t : State} (h : decoderStep s = .next t) : DecOutGrows s t := by
  rcases decoderStep_inv h with
    ⟨_, rfl⟩ | ⟨_, ⟨i, hi, he⟩ | ⟨_, rfl⟩ | ⟨_, rfl⟩ | ⟨_, _, rfl⟩ | ⟨_, _, rfl⟩⟩
  · exact .of_eq rfl
  · exact exec_chunk_grows (fetch_unit hi).1 he
  · exact decOutGrows_raiseDec ..
  · exact decOutGrows_raiseDec ..
  · exact decOutGrows_raiseDec ..
  · exact ⟨[], (List.append_nil _).symm, rfl⟩

/-- A pixel step appends to ENC.OUT: nothing on Run, else the pending run and the chunk (R93, R94). -/
theorem pixelStep_grows {s t : State} (h : pixelStep s = .next t) : EncOutGrows s t := by
  obtain ⟨cur, _, ⟨_, rfl⟩ | ⟨_, u, hu, rfl⟩⟩ := pixelStep_inv h
  · exact .of_out_eq rfl
  · obtain ⟨c, hc⟩ := rememberUnlessIndex_writes_cache
      (classify s.cfg.diffTie cur s.enc.prev s.enc.cache) cur (setRunPrev 0 cur u)
    rw [hc]
    exact ⟨_, congrArg Encoder.out (enc_of_emit hu)⟩

/-- An encoder step appends to ENC.OUT (R33, R92, R100). -/
theorem encoderStep_grows {s t : State} (h : encoderStep s = .next t) : EncOutGrows s t := by
  rcases encoderStep_inv h with ⟨_, rfl⟩ | ⟨_, _, hp⟩ | ⟨_, _, u, hu, rfl⟩
  · exact .of_out_eq rfl
  · exact pixelStep_grows hp
  · exact ⟨_, congrArg Encoder.out (enc_of_emit hu)⟩

/-- No host request changes an engine that is in BODY (R24, R31). -/
theorem serve_keeps_running {r : Request} {s t : State} (h : serve r s = .next t) :
    (s.enc.phase = .body → t.enc = s.enc) ∧ (s.dec.phase = .body → t.dec = s.dec) := by
  rcases serve_inv h with hd | he | ⟨hp, _, _, _, _, rfl⟩ | ⟨hp, _, _, _, rfl⟩ | ⟨_, _, _, rfl⟩
  · exact ⟨fun _ => (decoderStart_outside hd).enc, fun hb => absurd hb (decoderStart_inv hd).1⟩
  · exact ⟨fun hb => absurd hb (encoderStart_inv he).1, fun _ => (encoderStart_outside he).dec⟩
  · exact ⟨fun hb => absurd hb hp, fun _ => rfl⟩
  · exact ⟨fun _ => rfl, fun hb => absurd hb hp⟩
  · exact ⟨fun _ => rfl, fun _ => rfl⟩

/-- Settles O53: the host leaves a running engine alone, an engine's own step appends, and the other engine's step does
not touch it. -/
theorem outputsOnlyGrow : Obligations.OutputsOnlyGrow := by
  intro s t h
  rcases step_inv h with ⟨r, hr⟩ | he | hd
  · obtain ⟨enc, dec⟩ := serve_keeps_running hr
    exact ⟨fun hb => EncOutGrows.of_out_eq (congrArg Encoder.out (enc hb)), fun hb => DecOutGrows.of_eq (dec hb)⟩
  · have grows : EncOutGrows (popTurn s) t := encoderStep_grows he
    exact ⟨fun _ => grows, fun _ => DecOutGrows.of_eq (encoderStep_frame he).1.dec⟩
  · have grows : DecOutGrows (popTurn s) t := decoderStep_grows hd
    exact ⟨fun _ => EncOutGrows.of_out_eq (congrArg Encoder.out (decoderStep_frame hd).1.enc), fun _ => grows⟩

end Machine

end Sys2Proof
end

section
/-! SUPPORT. Decoding and encoding invert each other: which first bytes start which chunk, the fields of a tag byte
taken apart and put together, then each unit in both directions (R45 to R48, R50 to R58, R61, R112). -/

namespace Sys2Proof

/-! ## First bytes -/

/-- Settles O8, over all 256 bytes: the row each one matches. -/
theorem firstBytePartition : Obligations.FirstBytePartition := by
  unfold Obligations.FirstBytePartition
  decide +kernel

/-- The first bytes of a kind's chunks (R56). -/
def Starts : ChunkKind → Byte → Prop
  | .rgb, t => t = Config.tagRgb
  | .rgba, t => t = Config.tagRgba
  | .index, t => t.toNat < 64
  | .diff, t => 64 ≤ t.toNat ∧ t.toNat < 128
  | .luma, t => 128 ≤ t.toNat ∧ t.toNat < 192
  | .run, t => 192 ≤ t.toNat ∧ t.toNat < 254

/-- The row a byte matches is of the kind whose chunks it starts (R56, R61). -/
theorem rowOf_kind_iff (t : Byte) (k : ChunkKind) : (∃ row, rowOf t = some row ∧ row.kind = k) ↔ Starts k t := by
  have part := firstBytePartition t
  have hlt := t.isLt
  have hrgb : t = 0xFE ↔ t.toNat = 254 := BitVec.toNat_inj.symm
  have hrgba : t = 0xFF ↔ t.toNat = 255 := BitVec.toNat_inj.symm
  cases hr : rowOf t with
  | none => exact absurd hr (Machine.rowOf_ne_none t)
  | some row =>
    rw [hr] at part
    simp only [hrgb, hrgba] at part
    have kind : (∃ row', some row = some row' ∧ row'.kind = k) ↔ row.kind = k := by simp
    rw [kind]
    split_ifs at part
    all_goals
      simp only [Option.map_some, Option.some.injEq, Prod.mk.injEq] at part
      obtain ⟨found, -⟩ := part
      rw [found]
      cases k <;> simp only [Starts, Config.tagRgb, Config.tagRgba, hrgb, hrgba, reduceCtorEq, false_iff, true_iff] <;>
        omega

/-! ## Fields of a byte -/

/-- The low six bits of a tag byte are its field (R48). -/
theorem byteField_tagByte (tag : BitVec 2) {n : Nat} (h : n < 64) : byteField (tagByte tag n) 0 6 = n := by
  rw [byteField, tagByte_toNat tag h]
  omega

/-- A byte is its tag and its low six bits (R48). -/
theorem tagByte_byteField {tag : BitVec 2} {t : Byte} (h : t.toNat / 64 = tag.toNat) :
    tagByte tag (byteField t 0 6) = t := by
  apply BitVec.eq_of_toNat_eq
  rw [tagByte_toNat tag (byteField_lt t 0 6), byteField]
  omega

/-- The three fields of the DIFF byte make up its low six bits (R53). -/
theorem byteField_diff_iff (t : Byte) {r g b : Nat} (hr : r < 4) (hg : g < 4) (hb : b < 4) :
    byteField t 0 6 = r * 16 + g * 4 + b ↔
      byteField t Config.diffLowR 2 = r ∧ byteField t Config.diffLowG 2 = g ∧ byteField t Config.diffLowB 2 = b := by
  simp only [byteField, Config.diffLowR, Config.diffLowG, Config.diffLowB]
  omega

/-- The two nibbles of the second LUMA byte make it up (R54). -/
theorem byteField_luma_iff (u : Byte) {r b : Nat} (hr : r < 16) (hb : b < 16) :
    u = BitVec.ofNat 8 (r * 16 + b) ↔
      byteField u Config.lumaLowR 4 = r ∧ byteField u Config.lumaLowB 4 = b := by
  have hlt := u.isLt
  rw [← BitVec.toNat_inj]
  simp only [byteField, Config.lumaLowR, Config.lumaLowB, BitVec.toNat_ofNat]
  omega

/-! ## Biased operands -/

/-- An integer from minus the bias up is a field less the bias (R57). -/
theorem exists_field {bias x : Int} {n : Nat} (hl : -bias ≤ x) (hu : x < n - bias) :
    ∃ f : Nat, f < n ∧ x = f - bias :=
  ⟨(x + bias).toNat, by omega, by omega⟩

/-- The DIFF byte in terms of its fields (R53, R57). -/
theorem encode_diff_fields (r g b : Nat) :
    encode (.diff (r - Config.biasDiff) (g - Config.biasDiff) (b - Config.biasDiff)) =
      [tagByte Config.tagDiff (r * 16 + g * 4 + b)] := by
  simp only [encode, sub_add_cancel, Int.toNat_natCast]
  simp [Config.diffLowR, Config.diffLowG, Config.diffLowB]

/-- The LUMA bytes in terms of their fields (R54, R57). -/
theorem encode_luma_fields (g r b : Nat) :
    encode (.luma (g - Config.biasLumaG) (r - Config.biasLuma) (b - Config.biasLuma)) =
      [tagByte Config.tagLuma g, BitVec.ofNat 8 (r * 16 + b)] := by
  simp only [encode, sub_add_cancel, Int.toNat_natCast]
  simp [Config.lumaLowR, Config.lumaLowB]

/-! ## Chunks -/

/-- The DIFF byte of three fields decodes to them (R53). -/
theorem decodeChunk_diff {r g b : Nat} (hr : r < 4) (hg : g < 4) (hb : b < 4) (rest : List Byte) :
    decodeChunk (tagByte Config.tagDiff (r * 16 + g * 4 + b) :: rest) =
      .ok (.diff (r - Config.biasDiff) (g - Config.biasDiff) (b - Config.biasDiff), rest) := by
  have fits : r * 16 + g * 4 + b < 64 := by omega
  have starts : Starts .diff (tagByte Config.tagDiff (r * 16 + g * 4 + b)) := by
    rw [Starts, tagDiff_toNat fits]
    omega
  obtain ⟨fr, fg, fb⟩ := (byteField_diff_iff _ hr hg hb).1 (byteField_tagByte Config.tagDiff fits)
  exact decodeChunk_of_row ((rowOf_kind_iff _ _).2 starts) (by rw [chunkOperands, fr, fg, fb])

/-- The INDEX byte of a slot decodes to it (R52). -/
theorem decodeChunk_index (idx : Fin 64) (rest : List Byte) :
    decodeChunk (tagByte Config.tagIndex idx.val :: rest) = .ok (.index idx, rest) := by
  have starts : Starts .index (tagByte Config.tagIndex idx.val) := by
    rw [Starts, tagIndex_toNat idx.isLt]
    exact idx.isLt
  refine decodeChunk_of_row ((rowOf_kind_iff _ _).2 starts) ?_
  rw [chunkOperands, byteField_tagByte _ idx.isLt, Fin.ofNat_val_eq_self]

/-- The LUMA bytes of three fields decode to them (R54). -/
theorem decodeChunk_luma {g r b : Nat} (hg : g < 64) (hr : r < 16) (hb : b < 16) (rest : List Byte) :
    decodeChunk (tagByte Config.tagLuma g :: BitVec.ofNat 8 (r * 16 + b) :: rest) =
      .ok (.luma (g - Config.biasLumaG) (r - Config.biasLuma) (b - Config.biasLuma), rest) := by
  have starts : Starts .luma (tagByte Config.tagLuma g) := by
    rw [Starts, tagLuma_toNat hg]
    omega
  obtain ⟨fr, fb⟩ := (byteField_luma_iff _ hr hb).1 rfl
  exact decodeChunk_of_row ((rowOf_kind_iff _ _).2 starts) (by rw [chunkOperands, byteField_tagByte _ hg, fr, fb])

/-- The RUN byte of a field up to 61 decodes to the length one above it (R55, R58). -/
theorem decodeChunk_run {f : Nat} (hf : f < 62) (rest : List Byte) :
    decodeChunk (tagByte Config.tagRun f :: rest) = .ok (.run (f + 1), rest) := by
  have fits : f < 64 := by omega
  have starts : Starts .run (tagByte Config.tagRun f) := by
    rw [Starts, tagRun_toNat fits]
    omega
  exact decodeChunk_of_row ((rowOf_kind_iff _ _).2 starts) (by rw [chunkOperands, byteField_tagByte _ fits])

/-- Decode after encode, for a chunk (R57). -/
theorem decodeChunk_encode {i : Instr} (hp : i.place = .body) (hw : i.wellFormed = true) (rest : List Byte) :
    decodeChunk (encode i ++ rest) = .ok (i, rest) := by
  cases i with
  | rgb r g b => exact decodeChunk_of_row ((rowOf_kind_iff _ .rgb).2 rfl) rfl
  | rgba r g b a => exact decodeChunk_of_row ((rowOf_kind_iff _ .rgba).2 rfl) rfl
  | diff dr dg db =>
    obtain ⟨⟨⟨rl, ru⟩, gl, gu⟩, bl, bu⟩ := (wellFormed_diff dr dg db).1 hw
    obtain ⟨r, hr, rfl⟩ := exists_field (bias := Config.biasDiff) (n := 4) rl (Int.lt_add_one_of_le ru)
    obtain ⟨g, hg, rfl⟩ := exists_field (bias := Config.biasDiff) (n := 4) gl (Int.lt_add_one_of_le gu)
    obtain ⟨b, hb, rfl⟩ := exists_field (bias := Config.biasDiff) (n := 4) bl (Int.lt_add_one_of_le bu)
    rw [encode_diff_fields]
    exact decodeChunk_diff hr hg hb rest
  | index idx => exact decodeChunk_index idx rest
  | luma dg drDg dbDg =>
    obtain ⟨⟨⟨gl, gu⟩, rl, ru⟩, bl, bu⟩ := (wellFormed_luma dg drDg dbDg).1 hw
    obtain ⟨g, hg, rfl⟩ := exists_field (bias := Config.biasLumaG) (n := 64) gl (Int.lt_add_one_of_le gu)
    obtain ⟨r, hr, rfl⟩ := exists_field (bias := Config.biasLuma) (n := 16) rl (Int.lt_add_one_of_le ru)
    obtain ⟨b, hb, rfl⟩ := exists_field (bias := Config.biasLuma) (n := 16) bl (Int.lt_add_one_of_le bu)
    rw [encode_luma_fields]
    exact decodeChunk_luma hg hr hb rest
  | run n =>
    obtain ⟨hl, hu⟩ := (wellFormed_run n).1 hw
    obtain ⟨f, rfl⟩ := Nat.exists_eq_add_of_le' hl
    exact decodeChunk_run (by omega) rest
  | header _ _ _ _ => cases hp
  | endMark => cases hp

/-- Bytes that hold a kind's operands, behind a first byte of that kind, are the encoding of what they hold (R57). -/
theorem encode_of_chunkOperands {k : ChunkKind} {t : Byte} {tail rest : List Byte} {i : Instr} (hs : Starts k t)
    (h : chunkOperands k (t :: tail) = some (i, rest)) : t :: tail = encode i ++ rest := by
  generalize hbs : t :: tail = bs at h
  unfold chunkOperands at h
  split at h <;> cases h <;> cases hbs
  case h_1 =>
    rw [show t = Config.tagRgb from hs]
    rfl
  case h_2 =>
    rw [show t = Config.tagRgba from hs]
    rfl
  case h_3 =>
    obtain ⟨hl, hu⟩ := hs
    have tag : t.toNat / 64 = Config.tagDiff.toNat := show _ = 1 by omega
    have split := (byteField_diff_iff t (byteField_lt ..) (byteField_lt ..) (byteField_lt ..)).2 ⟨rfl, rfl, rfl⟩
    rw [encode_diff_fields, ← split, tagByte_byteField tag]
    rfl
  case h_4 =>
    have tag : t.toNat / 64 = Config.tagIndex.toNat := show _ = 0 from Nat.div_eq_of_lt hs
    have slot : (Fin.ofNat 64 (byteField t 0 6)).val = byteField t 0 6 := Nat.mod_eq_of_lt (byteField_lt ..)
    rw [encode, slot, tagByte_byteField tag]
    rfl
  case h_5 u =>
    obtain ⟨hl, hu⟩ := hs
    have tag : t.toNat / 64 = Config.tagLuma.toNat := show _ = 2 by omega
    have split := (byteField_luma_iff u (byteField_lt ..) (byteField_lt ..)).2 ⟨rfl, rfl⟩
    rw [encode_luma_fields, ← split, tagByte_byteField tag]
    rfl
  case h_6 =>
    obtain ⟨hl, hu⟩ := hs
    have tag : t.toNat / 64 = Config.tagRun.toNat := show _ = 3 by omega
    rw [encode, Nat.add_sub_cancel, tagByte_byteField tag]
    rfl

/-- Encode after decode, for a chunk (R57, R58). -/
theorem encode_of_decodeChunk {bs rest : List Byte} {i : Instr} (h : decodeChunk bs = .ok (i, rest)) :
    bs = encode i ++ rest := by
  obtain ⟨t, tail, row, rfl, hr, ho⟩ := decodeChunk_inv h
  exact encode_of_chunkOperands ((rowOf_kind_iff t row.kind).1 ⟨row, hr, rfl⟩) ho

/-! ## Framing units -/

/-- The magic and ten bytes decode to the header of four fields (R46, R112). -/
theorem decodeHeader_magic (w0 w1 w2 w3 h0 h1 h2 h3 ch cs : Byte) (rest : List Byte) :
    decodeHeader (Config.magic ++ w0 :: w1 :: w2 :: w3 :: h0 :: h1 :: h2 :: h3 :: ch :: cs :: rest) =
      .ok (.header (be32 w0 w1 w2 w3) (be32 h0 h1 h2 h3) ch cs, rest) :=
  if_neg (not_not_intro rfl)

/-- Decode after encode, for a header, legal or not (R35, R46). -/
theorem decodeHeader_encode (w h : Word) (ch cs : Byte) (rest : List Byte) :
    decodeHeader (encode (.header w h ch cs) ++ rest) = .ok (.header w h ch cs, rest) := by
  have decoded := decodeHeader_magic (.ofNat 8 (w.toNat / 2 ^ 24)) (.ofNat 8 (w.toNat / 2 ^ 16))
    (.ofNat 8 (w.toNat / 2 ^ 8)) (.ofNat 8 w.toNat) (.ofNat 8 (h.toNat / 2 ^ 24)) (.ofNat 8 (h.toNat / 2 ^ 16))
    (.ofNat 8 (h.toNat / 2 ^ 8)) (.ofNat 8 h.toNat) ch cs rest
  rwa [be32_u32be, be32_u32be] at decoded

/-- Encode after decode, for a header (R46). -/
theorem encode_of_decodeHeader {bs rest : List Byte} {i : Instr} (h : decodeHeader bs = .ok (i, rest)) :
    i.place = .head ∧ bs = encode i ++ rest := by
  unfold decodeHeader at h
  split at h
  · cases h
  next hm =>
    split at h
    next fields =>
      cases h
      refine ⟨rfl, ?_⟩
      rw [← List.take_append_drop 4 bs, fields, not_not.1 hm, encode, u32be_be32, u32be_be32]
      rfl
    · cases h

/-- Decode after encode, for the end marker (R47). -/
theorem decodeEnd_encode (rest : List Byte) : decodeEnd (encode .endMark ++ rest) = .ok (.endMark, rest) :=
  if_pos rfl

/-- Encode after decode, for the end marker (R47). -/
theorem encode_of_decodeEnd {bs rest : List Byte} {i : Instr} (h : decodeEnd bs = .ok (i, rest)) :
    i.place = .tail ∧ bs = encode i ++ rest := by
  unfold decodeEnd at h
  split at h
  next hm =>
    cases h
    refine ⟨rfl, ?_⟩
    rw [encode, ← hm, List.take_append_drop]
  · cases h

/-! ## Both round trips, at every place -/

/-- Settles O6: by the unit's place. -/
theorem decodeInvertsEncode : Obligations.DecodeInvertsEncode := by
  intro i rest hw
  cases i with
  | header w h ch cs => exact decodeHeader_encode w h ch cs rest
  | endMark => exact decodeEnd_encode rest
  | _ => exact decodeChunk_encode rfl hw rest

/-- Settles O7: by the place, a chunk's operands being in range by `decodeChunk_spec`. -/
theorem encodeInvertsDecode : Obligations.EncodeInvertsDecode := by
  intro place bs rest i h
  cases place with
  | head =>
    obtain ⟨hp, hb⟩ := encode_of_decodeHeader h
    exact ⟨hp, hb, encode_length i, nofun⟩
  | body =>
    obtain ⟨hp, -, hw⟩ := decodeChunk_spec h
    exact ⟨hp, encode_of_decodeChunk h, encode_length i, fun _ => hw⟩
  | tail =>
    obtain ⟨hp, hb⟩ := encode_of_decodeEnd h
    exact ⟨hp, hb, encode_length i, nofun⟩

/-- Bytes that are a well-formed unit's encoding decode to it, with nothing left. -/
theorem decode_word (i : Instr) {bs : List Byte} (hw : i.wellFormed = true) (hb : encode i = bs) :
    decode i.place bs = .ok (i, []) := by
  have decoded := decodeInvertsEncode i [] hw
  rwa [List.append_nil, hb] at decoded

/-- Settles O9: each word is the encoding of its unit, so it decodes to it; the rejections by evaluation. -/
theorem specWordsDecode : Obligations.SpecWordsDecode := by
  refine ⟨decode_word (.rgb 100 0 1) ?_ ?_, decode_word (.rgba 1 2 3 4) ?_ ?_, decode_word (.diff 1 (-1) 0) ?_ ?_,
    decode_word (.index 11) ?_ ?_, decode_word (.luma 8 1 (-3)) ?_ ?_, decode_word (.run 6) ?_ ?_,
    decode_word (.header 2 259 4 1) ?_ ?_, decode_word .endMark ?_ ?_, ?badMagic, ?badMarker, ?truncated⟩
  all_goals decide

end Sys2Proof
end

section
/-! SUPPORT. Pixel arithmetic: the wrapping addition, the wrap-around difference by its distance, that a tie never
decides a verdict, the hash, and the two equalities (R70 to R76). -/

namespace Sys2Proof.Machine

/-! ## The wrapping addition -/

/-- R76's definition, on numbers. -/
theorem toNat_add8 (x : Byte) (d : Int) : ((add8 x d).toNat : Int) = (x.toNat + d) % 256 := by
  rw [add8, BitVec.toNat_ofInt, Int.toNat_of_nonneg (Int.emod_nonneg _ (by decide))]
  rfl

/-- A byte is the wrapping sum exactly when the two agree modulo 256. -/
theorem add8_eq_iff {x y : Byte} {d : Int} : add8 x d = y ↔ (x.toNat + d - y.toNat) % 256 = 0 := by
  have hsum := toNat_add8 x d
  rw [← BitVec.toNat_inj]
  omega

/-- Settles O5: the definition is `toNat_add8`; each law compares numbers modulo 256. -/
theorem wrappingAdditionLaws : Obligations.WrappingAdditionLaws := by
  intro x d e
  have hd := toNat_add8 x d
  refine ⟨hd, add8_eq_iff.2 ?zero, add8_eq_iff.2 ?twice, add8_eq_iff.2 ?period⟩
  case zero => simp
  case twice => rw [hd, toNat_add8]; omega
  case period => rw [toNat_add8]; omega

/-! ## The wrap-around difference -/

/-- A delta that DIFF_TIE can be: either representative of distance 128 (R70). -/
def IsTie (d : Int) : Prop := d = 128 ∨ d = -128

theorem isTie_value (tie : DiffTie) : IsTie tie.value := by
  cases tie
  · exact .inl rfl
  · exact .inr rfl

/-- The distance from y to x modulo 256: the `m` of R70. -/
def distance (x y : Byte) : Int := (x.toNat - y.toNat : Int) % 256

/-- The distance is the first unsigned form of R70. -/
theorem toNat_sub_eq_distance (x y : Byte) : ((x - y).toNat : Int) = distance x y := by
  rw [BitVec.toNat_sub, distance]
  omega

/-- The two unsigned forms of R70 add up to 256, or are both 0. -/
theorem distance_swap (x y : Byte) :
    (distance x y = 0 ∧ distance y x = 0) ∨
      (0 < distance x y ∧ 0 < distance y x ∧ distance x y + distance y x = 256) := by
  simp only [distance]
  omega

/-- R70's closed form: by the distance, three cases that exclude each other. -/
theorem sdiff8_cases (tie : DiffTie) (x y : Byte) :
    (0 ≤ distance x y ∧ distance x y ≤ 127 ∧ sdiff8 tie x y = distance x y) ∨
      (distance x y = 128 ∧ sdiff8 tie x y = tie.value) ∨
      (129 ≤ distance x y ∧ distance x y ≤ 255 ∧ sdiff8 tie x y = distance x y - 256) := by
  have hxy := toNat_sub_eq_distance x y
  have hyx := toNat_sub_eq_distance y x
  have swap := distance_swap x y
  unfold sdiff8
  dsimp only
  split
  · exact .inl (by omega)
  · split
    · exact .inr (.inr (by omega))
    · split
      · exact .inl (by omega)
      · exact .inr (.inl ⟨by omega, rfl⟩)

/-- Equal bytes differ by 0 (R70). -/
theorem sdiff8_self (tie : DiffTie) (x : Byte) : sdiff8 tie x x = 0 := by
  have zero : distance x x = 0 := by simp [distance]
  have closed := sdiff8_cases tie x x
  omega

/-- Settles O1: every clause is read off the closed form. -/
theorem differenceIsSmallestRepresentative : Obligations.DifferenceIsSmallestRepresentative := by
  refine ⟨rfl, fun tie x y => ?_⟩
  have swap := distance_swap x y
  have closed := sdiff8_cases tie x y
  simp only [distance] at swap closed
  refine ⟨⟨?first, ?second, ?tied, fun h => h ▸ sdiff8_self tie x⟩, ⟨?low, ?high⟩, ?range, fun p q => rfl⟩
  all_goals omega

/-- Rebuilding: the difference added to y gives x back (R72). -/
theorem add8_sdiff8 (tie : DiffTie) (x y : Byte) : add8 y (sdiff8 tie x y) = x := by
  have closed := sdiff8_cases tie x y
  have value := isTie_value tie
  rw [distance] at closed
  rw [IsTie] at value
  exact add8_eq_iff.2 (by omega)

/-- Away from distance 128 the difference is antisymmetric (R72). -/
theorem sdiff8_antisymm {x y : Byte} (h : distance x y ≠ 128) (tie : DiffTie) : sdiff8 tie x y = -sdiff8 tie y x := by
  have swap := distance_swap x y
  have hxy := sdiff8_cases tie x y
  have hyx := sdiff8_cases tie y x
  omega

/-- At distance 128 the difference is DIFF_TIE, in either order (R72). -/
theorem sdiff8_tie {x y : Byte} (h : distance x y = 128) (tie : DiffTie) :
    sdiff8 tie x y = tie.value ∧ sdiff8 tie y x = tie.value := by
  have swap := distance_swap x y
  have hxy := sdiff8_cases tie x y
  have hyx := sdiff8_cases tie y x
  omega

/-! ## A tie decides no verdict -/

/-- What DIFF_TIE changes: a delta that is a tie under either value, and no other. -/
theorem sdiff8_eq_or_isTie (tie tie' : DiffTie) (x y : Byte) :
    sdiff8 tie x y = sdiff8 tie' x y ∨ IsTie (sdiff8 tie x y) ∧ IsTie (sdiff8 tie' x y) := by
  by_cases h : distance x y = 128
  · rw [(sdiff8_tie h tie).1, (sdiff8_tie h tie').1]
    exact .inr ⟨isTie_value tie, isTie_value tie'⟩
  · have closed := sdiff8_cases tie x y
    have closed' := sdiff8_cases tie' x y
    exact .inl (by omega)

/-- With a tie among the deltas neither range test passes: LUMA's bound on dr and db is 31 + 7 (R84, R85). -/
theorem classifyDeltas_of_isTie {dr dg db : Int} (h : IsTie dr ∨ IsTie dg ∨ IsTie db) (cur : Pixel) :
    classifyDeltas cur dr dg db = .rgb cur.r cur.g cur.b := by
  simp only [IsTie] at h
  rcases classifyDeltas_cases cur dr dg db with ⟨diff, -⟩ | ⟨-, luma, -⟩ | ⟨-, -, rgb⟩
  · simp only [fitsDiff, Bool.and_eq_true, inRange_iff] at diff
    omega
  · simp only [fitsLuma, Bool.and_eq_true, inRange_iff] at luma
    omega
  · exact rgb

/-- Step 4 does not see DIFF_TIE: the deltas are the same, or each side has a tie and is RGB. -/
theorem classifyDeltas_tie_congr (tie tie' : DiffTie) (cur prev : Pixel) :
    classifyDeltas cur (sdiff8 tie cur.r prev.r) (sdiff8 tie cur.g prev.g) (sdiff8 tie cur.b prev.b) =
      classifyDeltas cur (sdiff8 tie' cur.r prev.r) (sdiff8 tie' cur.g prev.g) (sdiff8 tie' cur.b prev.b) := by
  rcases sdiff8_eq_or_isTie tie tie' cur.r prev.r with hr | ⟨hr, hr'⟩
  · rcases sdiff8_eq_or_isTie tie tie' cur.g prev.g with hg | ⟨hg, hg'⟩
    · rcases sdiff8_eq_or_isTie tie tie' cur.b prev.b with hb | ⟨hb, hb'⟩
      · rw [hr, hg, hb]
      · rw [classifyDeltas_of_isTie (.inr (.inr hb)), classifyDeltas_of_isTie (.inr (.inr hb'))]
    · rw [classifyDeltas_of_isTie (.inr (.inl hg)), classifyDeltas_of_isTie (.inr (.inl hg'))]
  · rw [classifyDeltas_of_isTie (.inl hr), classifyDeltas_of_isTie (.inl hr')]

/-- No verdict depends on DIFF_TIE (R72). -/
theorem classify_tie_congr (tie tie' : DiffTie) (cur prev : Pixel) (cache : Cache) :
    classify tie cur prev cache = classify tie' cur prev cache := by
  simp only [classify, difference, classifyDeltas_tie_congr tie tie']

/-- Settles O2: rebuilding gives the congruence, the distance decides antisymmetry, and a tie decides no verdict. -/
theorem differenceLaws : Obligations.DifferenceLaws := by
  refine ⟨fun tie x y => ?congruent, add8_sdiff8, fun tie x y => ⟨fun h => sdiff8_antisymm h tie, fun h => ?tied⟩,
    classify_tie_congr⟩
  case congruent =>
    have rebuilt := add8_eq_iff.1 (add8_sdiff8 tie x y)
    omega
  case tied =>
    obtain ⟨hxy, hyx⟩ := sdiff8_tie h tie
    have value := isTie_value tie
    rw [IsTie] at value
    exact ⟨hxy, hyx, by omega⟩

/-! ## The hash -/

/-- The hash is the weighted sum modulo 64 (R73). -/
theorem val_pixelHash (p : Pixel) : (pixelHash p).val = hashSum p % 64 := rfl

/-- The weighted sum is at most 255 times the sum of the weights (R73). -/
theorem hashSum_le (p : Pixel) : hashSum p ≤ 6630 := by
  simp only [hashSum]
  omega

/-- The sum in eight bits is the sum modulo 256 (R73). -/
theorem toNat_byteSum (p : Pixel) : (p.r * 3 + p.g * 5 + p.b * 7 + p.a * 11).toNat = hashSum p % 256 := by
  simp [hashSum, BitVec.toNat_add, BitVec.toNat_mul]

/-- Settles O3: 64 divides 256, so reducing early is exact; the listed values by evaluation. -/
theorem hashIsWeightedSumModulo64 : Obligations.HashIsWeightedSumModulo64 := by
  refine ⟨fun p => ⟨val_pixelHash p, hashSum_le p, ?early⟩, ?listed⟩
  case early => rw [toNat_byteSum, Nat.mod_mod_of_dvd _ (by decide : 64 ∣ 256), val_pixelHash]
  case listed => decide

/-! ## The two equalities -/

/-- Pixels are equal when their four channels are (R7). -/
theorem pixel_eq_iff (p q : Pixel) : p = q ↔ p.r = q.r ∧ p.g = q.g ∧ p.b = q.b ∧ p.a = q.a := by
  cases p
  cases q
  simp only [Pixel.mk.injEq]

/-- RGB-only equality is equality of the three colour channels (R75). -/
theorem eq3_iff (p q : Pixel) : eq3 p q = true ↔ p.r = q.r ∧ p.g = q.g ∧ p.b = q.b := by
  simp only [eq3, Bool.and_eq_true, beq_iff_eq, and_assoc]

/-- Settles O4: full equality is equality of pixels, which is equality of their four channels. -/
theorem equalitiesCompareChannels : Obligations.EqualitiesCompareChannels := fun p q =>
  ⟨(eq4_iff p q).trans (pixel_eq_iff p q), eq3_iff p q⟩

end Sys2Proof.Machine
end

section
/-! SUPPORT. The classifier's decision table, and that the chunk it chooses gives the pixel back (41_classifier.md R87,
R88). -/

namespace Sys2Proof.Machine

/-! ## The decision table -/

theorem fitsDiff_iff (dr dg db : Int) :
    fitsDiff dr dg db = true ↔ -2 ≤ dr ∧ dr ≤ 1 ∧ -2 ≤ dg ∧ dg ≤ 1 ∧ -2 ≤ db ∧ db ≤ 1 := by
  simp only [fitsDiff, Bool.and_eq_true, inRange_iff, and_assoc]

theorem fitsLuma_iff (dr dg db : Int) :
    fitsLuma dr dg db = true ↔ -32 ≤ dg ∧ dg ≤ 31 ∧ -8 ≤ dr - dg ∧ dr - dg ≤ 7 ∧ -8 ≤ db - dg ∧ db - dg ≤ 7 := by
  simp only [fitsLuma, Bool.and_eq_true, inRange_iff, and_assoc]

/-- The rows of R87's table: the conditions under which the classifier gives each verdict, the deltas being `dr`, `dg`
and `db`. -/
inductive TableRow (cur prev : Pixel) (cache : Cache) (dr dg db : Int) : Verdict → Prop
  | run (same : cur = prev) : TableRow cur prev cache dr dg db .run
  | index (new : cur ≠ prev) (hit : cur = slot cache (pixelHash cur)) :
    TableRow cur prev cache dr dg db (.index (pixelHash cur))
  | rgba (new : cur ≠ prev) (miss : cur ≠ slot cache (pixelHash cur)) (alpha : cur.a ≠ prev.a) :
    TableRow cur prev cache dr dg db (.rgba cur.r cur.g cur.b cur.a)
  | diff (new : cur ≠ prev) (miss : cur ≠ slot cache (pixelHash cur)) (alpha : cur.a = prev.a)
    (fits : fitsDiff dr dg db = true) : TableRow cur prev cache dr dg db (.diff dr dg db)
  | luma (new : cur ≠ prev) (miss : cur ≠ slot cache (pixelHash cur)) (alpha : cur.a = prev.a)
    (wide : fitsDiff dr dg db = false) (fits : fitsLuma dr dg db = true) :
    TableRow cur prev cache dr dg db (.luma dg (dr - dg) (db - dg))
  | rgb (new : cur ≠ prev) (miss : cur ≠ slot cache (pixelHash cur)) (alpha : cur.a = prev.a)
    (wide : fitsDiff dr dg db = false) (wider : fitsLuma dr dg db = false) :
    TableRow cur prev cache dr dg db (.rgb cur.r cur.g cur.b)

/-- The verdict stands in a row of the table whose conditions hold (R80, R87). -/
theorem classify_row (tie : DiffTie) (cur prev : Pixel) (cache : Cache) :
    TableRow cur prev cache (sdiff8 tie cur.r prev.r) (sdiff8 tie cur.g prev.g) (sdiff8 tie cur.b prev.b)
      (classify tie cur prev cache) := by
  simp only [classify, difference, eq4_iff]
  split
  next same => exact .run same
  next new =>
    split
    next hit => exact .index new hit
    next miss =>
      split
      next alpha => exact .rgba new miss alpha
      next alpha =>
        have alpha := not_not.1 alpha
        rcases classifyDeltas_cases cur (sdiff8 tie cur.r prev.r) (sdiff8 tie cur.g prev.g) (sdiff8 tie cur.b prev.b)
          with ⟨fits, e⟩ | ⟨wide, fits, e⟩ | ⟨wide, wider, e⟩
        · exact e ▸ .diff new miss alpha fits
        · exact e ▸ .luma new miss alpha wide fits
        · exact e ▸ .rgb new miss alpha wide wider

/-- Settles O31: in each row the conditions decide all six sides, and no two verdicts are equal. -/
theorem classifierDecisionTable : Obligations.ClassifierDecisionTable := by
  intro tie cur prev cache
  simp only [← fitsDiff_iff, ← fitsLuma_iff]
  generalize classify tie cur prev cache = v, classify_row tie cur prev cache = row
  cases row with
  | run same => simp [same]
  | index new hit => simp [new, ← hit]
  | rgba new miss alpha => simp [new, miss, alpha]
  | diff new miss alpha fits => simp [new, miss, alpha, fits]
  | luma new miss alpha wide fits => simp [new, miss, alpha, wide, fits]
  | rgb new miss alpha wide wider => simp [new, miss, alpha, wide, wider]

/-! ## The pixels of a chunk -/

/-- Some pixels produced in order (R116). -/
def produceAll (ps : List Pixel) (s : State) : State := ps.foldl (fun t p => produce p t) s

/-- A run is that many copies of the previous pixel, produced in order (R123). -/
theorem produceRun_eq_produceAll (n : Nat) (s : State) :
    produceRun n s = produceAll (List.replicate n s.dec.prev) s := by
  induction n generalizing s with
  | zero => rfl
  | succ n ih => exact ih (produce s.dec.prev s)

/-- A chunk's rule produces the pixels R129 lists for it, and moves DEC.POS past the chunk (R118 to R123). -/
theorem exec_eq_produceAll {i : Instr} (hp : i.place = .body) (s : State) :
    exec i s = .next (advance i.length (produceAll (chunkPixels s.dec.prev s.dec.cache i) s)) := by
  cases i with
  | run n => exact congrArg (fun t => Host.Outcome.next (advance 1 t)) (produceRun_eq_produceAll n s)
  | header _ _ _ _ => cases hp
  | endMark => cases hp
  | _ => rfl

/-! ## The chunk chosen gives the pixel back -/

/-- The three differences added to the previous pixel give the pixel, if the alphas agree (R72, R120). -/
theorem addDeltas_sdiff8 (tie : DiffTie) {cur prev : Pixel} (alpha : cur.a = prev.a) :
    addDeltas prev (sdiff8 tie cur.r prev.r) (sdiff8 tie cur.g prev.g) (sdiff8 tie cur.b prev.b) = cur := by
  simp only [addDeltas, add8_sdiff8, ← alpha]

/-- A row other than Run writes a well-formed chunk whose one pixel, from the same previous pixel and the same slot, is
the pixel classified (R88). -/
theorem TableRow.reproduces {tie : DiffTie} {cur prev : Pixel} {cache cache' : Cache} {v : Verdict}
    (row : TableRow cur prev cache (sdiff8 tie cur.r prev.r) (sdiff8 tie cur.g prev.g) (sdiff8 tie cur.b prev.b) v)
    (hv : v ≠ .run) (agree : slot cache' (pixelHash cur) = slot cache (pixelHash cur)) :
    ∃ i : Instr, bytesOf v = encode i ∧ i.place = .body ∧ i.wellFormed = true ∧ chunkPixels prev cache' i = [cur] := by
  cases row with
  | run => exact absurd rfl hv
  | index _ hit => exact ⟨.index (pixelHash cur), rfl, rfl, rfl, by rw [chunkPixels, agree, ← hit]⟩
  | rgba => exact ⟨.rgba cur.r cur.g cur.b cur.a, rfl, rfl, rfl, rfl⟩
  | diff _ _ alpha fits => exact ⟨.diff _ _ _, rfl, rfl, fits, by rw [chunkPixels, addDeltas_sdiff8 tie alpha]⟩
  | luma _ _ alpha _ fits =>
    refine ⟨.luma _ _ _, rfl, rfl, fits, ?_⟩
    rw [chunkPixels, Int.sub_add_cancel, Int.sub_add_cancel, addDeltas_sdiff8 tie alpha]
  | rgb _ _ alpha => exact ⟨.rgb cur.r cur.g cur.b, rfl, rfl, rfl, by rw [chunkPixels, ← alpha]⟩

/-- Settles O32: on Run the previous pixel is the pixel; any other row's chunk decodes and produces it. -/
theorem choiceIsDecodable : Obligations.ChoiceIsDecodable := by
  intro tie cur cache s agree
  refine ⟨fun hv n => ⟨_, rfl, ?_⟩, fun hv rest => ?_⟩
  · have same := classify_run hv
    simp [produceRun_eq, same]
  · obtain ⟨i, bytes, place, wf, pixels⟩ := (classify_row tie cur s.dec.prev cache).reproduces hv agree
    have run := exec_eq_produceAll place s
    rw [pixels] at run
    rw [bytes]
    exact ⟨i, _, decodeChunk_encode place wf rest, wf, run, rfl, rfl⟩

end Sys2Proof.Machine
end

section
/-! SUPPORT. The run flush: the lengths it splits a pending run into, its bytes and how many they are (42_encoder.md
R97, R99, R171). -/

namespace Sys2Proof.Machine

/-- The RUN byte of a length is C0 and the length less one (R55). -/
theorem runByte_eq (n : Nat) : tagByte Config.tagRun (n - 1) = BitVec.ofNat 8 (0xC0 + (n - 1)) := rfl

/-- The lengths of the RUN chunks of a pending run: full ones of 62, and one for a remainder (R97). -/
def runLengths (n : Nat) : List Nat :=
  List.replicate (n / 62) 62 ++ if n % 62 = 0 then [] else [n % 62]

/-- `flush_run` is the RUN chunks of these lengths (R97, R171). -/
theorem flushRun_eq_runs (n : Nat) : flushRun n = (runLengths n).flatMap fun k => encode (.run k) := by
  have full : (List.replicate (n / 62) 62).flatMap (fun k => encode (.run k)) =
      List.replicate (n / 62) (tagByte Config.tagRun (62 - 1)) := by
    rw [List.flatMap_replicate]
    exact List.flatten_replicate_singleton
  rw [flushRun, runLengths, List.flatMap_append, full]
  by_cases h : n % 62 = 0 <;> simp [encode, Config.runMax, h]

/-- Every length has an encoding (R58). -/
theorem runLengths_wellFormed {n k : Nat} (h : k ∈ runLengths n) : (Instr.run k).wellFormed = true := by
  have rem : n % 62 < 62 := Nat.mod_lt _ (by decide)
  rw [wellFormed_run]
  rcases List.mem_append.1 h with h | h
  · rw [List.eq_of_mem_replicate h]
    decide
  · split at h
    · cases h
    · rw [List.mem_singleton.1 h]
      omega

/-- The lengths add up to the run. -/
theorem runLengths_sum (n : Nat) : (runLengths n).sum = n := by
  have parts := Nat.div_add_mod' n 62
  rw [runLengths, List.sum_append, List.sum_replicate, smul_eq_mul]
  by_cases h : n % 62 = 0 <;> simp [h] <;> omega

/-- Settles O34, by the lengths `runLengths`. -/
theorem flushedRunsAddUp : Obligations.FlushedRunsAddUp := fun n =>
  ⟨runLengths n, flushRun_eq_runs n, fun _ => runLengths_wellFormed, runLengths_sum n⟩

/-- Full chunks come first and are written as FD (R97). -/
theorem flushRun_full_add (q r : Nat) : flushRun (62 * q + r) = List.replicate q 0xFD ++ flushRun r := by
  have quot : (62 * q + r) / 62 = q + r / 62 := Nat.mul_add_div (by decide) q r
  simp only [flushRun, Config.runMax, quot, Nat.mul_add_mod, List.replicate_add, List.append_assoc]
  rfl

/-- A run of at most 62 is one chunk (R97). -/
theorem flushRun_short {n : Nat} (hl : 1 ≤ n) (hu : n ≤ 62) : flushRun n = [BitVec.ofNat 8 (0xC0 + (n - 1))] := by
  rcases hu.lt_or_eq with hlt | rfl
  · have rem : n ≠ 0 := Nat.ne_of_gt hl
    simp [flushRun, Config.runMax, Nat.div_eq_of_lt hlt, Nat.mod_eq_of_lt hlt, rem, runByte_eq]
  · rfl

/-- The length is the run over 62, rounded up (R99). -/
theorem flushRun_length (n : Nat) : (flushRun n).length = (n + 61) / 62 := by
  by_cases h : n % 62 = 0 <;> simp [flushRun, Config.runMax, h] <;> omega

/-- Its bytes are those of RUN chunks, below the tags of RGB and RGBA (R58). -/
theorem toNat_of_mem_flushRun {n : Nat} {b : Byte} (h : b ∈ flushRun n) : b.toNat < 254 := by
  rw [flushRun_eq_runs] at h
  obtain ⟨k, hk, hb⟩ := List.mem_flatMap.1 h
  obtain ⟨_, hu⟩ := (wellFormed_run k).1 (runLengths_wellFormed hk)
  rw [List.mem_singleton.1 hb, tagRun_toNat (by omega)]
  omega

/-- Settles O33: full chunks in front, one short run behind, and no byte above FD. -/
theorem flushRunSplitsBy62 : Obligations.FlushRunSplitsBy62 := by
  refine ⟨rfl, fun n hl hu => flushRun_short hl hu, fun n hn => ?_, flushRun_full_add, fun n =>
    ⟨flushRun_length n, fun b hb => ?_⟩⟩
  · obtain ⟨r, rfl⟩ := Nat.exists_eq_add_of_le hn.le
    rw [Nat.add_sub_cancel_left]
    exact flushRun_full_add 1 r
  · have low := toNat_of_mem_flushRun hb
    exact ⟨by rintro rfl; exact absurd low (by decide), by rintro rfl; exact absurd low (by decide)⟩

end Sys2Proof.Machine
end

section
/-! SUPPORT. The encoder's transitions as equations: the state each of START, the Run step, the chunk step and FINISH
leaves, and that an encoder step leaves no other (42_encoder.md R91 to R101). -/

namespace Sys2Proof.Machine

/-! ## The states the transitions leave -/

/-- START: the running state initialised and the header written (R91). -/
def headerWritten (s : State) : State :=
  { beginEncode s with enc := { (beginEncode s).enc with out := encoderHeader (beginEncode s).enc } }

/-- The Run step: one more pixel in the pending run (R93). -/
def runCounted (s : State) : State :=
  { s with enc := { s.enc with run := s.enc.run + 1, idx := s.enc.idx + 1 } }

/-- The chunk step: the pending run and the chunk written, the pixel the previous one and in its slot (R94). On Index
the slot holds it already (R96). -/
def chunkWritten (v : Verdict) (cur : Pixel) (s : State) : State :=
  { s with
    enc :=
      { s.enc with
        out := s.enc.out ++ flushRun s.enc.run ++ bytesOf v
        run := 0
        prev := cur
        cache := remember s.enc.cache cur
        idx := s.enc.idx + 1 } }

/-- FINISH: the pending run and the end marker written (R100). -/
def encodeFinished (s : State) : State :=
  { s with
    enc := { s.enc with out := s.enc.out ++ flushRun s.enc.run ++ encode .endMark, run := 0, phase := .done } }

/-! ## The transitions leave them -/

/-- Each chunk is one to five bytes (R95). -/
theorem bytesOf_length {v : Verdict} (h : v ≠ .run) : 1 ≤ (bytesOf v).length ∧ (bytesOf v).length ≤ 5 := by
  cases v with
  | run => exact absurd rfl h
  | _ => simp [bytesOf, encode]

/-- A counter value that fits is no overflow (R6). -/
theorem runOverflows_eq_false {o : Option Nat} {n : Nat} (h : ∀ w, o = some w → n < 2 ^ w) :
    runOverflows o n = false := by
  cases o with
  | none => rfl
  | some w => exact decide_eq_false (h w rfl).not_ge

/-- An admitted START with room for the header (R91). -/
theorem encoderStart_eq {s : State} (hb : s.enc.phase ≠ .body)
    (hf : legalFormat (fmtChannels s.enc.fmtReg) (fmtColorspace s.enc.fmtReg) = true)
    (hl : s.enc.pix.length = area s.enc.widthReg s.enc.heightReg)
    (hp : ∀ m, s.cfg.maxPixels = some m → s.enc.pix.length ≤ m) (hm : ∀ m, s.cfg.maxStream = some m → 14 ≤ m) :
    encoderStart s = .next (headerWritten s) := by
  rw [encoderStart_of_admitted hb hf hl (hl ▸ hp), emit_of_fits hm]
  rfl

section
variable {s : State}

/-! A START that is not admitted, by the test that names the refusal (R158; log 21). -/

theorem encoderStart_in_body (hb : s.enc.phase = .body) : encoderStart s = .refused .startDuringBody := if_pos hb

theorem encoderStart_of_format (hb : s.enc.phase ≠ .body)
    (hf : legalFormat (fmtChannels s.enc.fmtReg) (fmtColorspace s.enc.fmtReg) = false) :
    encoderStart s = .refused .formatAtStart := by
  simp only [encoderStart, hb, hf, if_true, if_false]

theorem encoderStart_of_count (hb : s.enc.phase ≠ .body)
    (hf : legalFormat (fmtChannels s.enc.fmtReg) (fmtColorspace s.enc.fmtReg) = true)
    (hl : s.enc.pix.length ≠ area s.enc.widthReg s.enc.heightReg) :
    encoderStart s = .refused .pixelCountAtStart := by
  simp [encoderStart, hb, hf, hl]

theorem encoderStart_of_area (hb : s.enc.phase ≠ .body)
    (hf : legalFormat (fmtChannels s.enc.fmtReg) (fmtColorspace s.enc.fmtReg) = true)
    (hl : s.enc.pix.length = area s.enc.widthReg s.enc.heightReg)
    (hp : ∃ m, s.cfg.maxPixels = some m ∧ m < s.enc.pix.length) :
    encoderStart s = .refused .tooManyPixels := by
  simp [encoderStart, hb, hf, hl, exceeds_eq_true (hl ▸ hp)]

end

section
variable {s : State} {cur : Pixel}

/-- In BODY, at a pixel equal to the previous one (R93). -/
theorem encoderStep_run (hb : s.enc.phase = .body) (hi : s.enc.idx < area s.enc.width s.enc.height)
    (hc : s.enc.pix[s.enc.idx]? = some cur) (h : cur = s.enc.prev)
    (hw : ∀ w, s.cfg.runWidth = some w → s.enc.run + 1 < 2 ^ w) : encoderStep s = .next (runCounted s) := by
  rw [encoderStep_of_pixel hb hi, pixelStep_of_run hc h, runStep, runOverflows_eq_false hw, h]
  rfl

/-- The chunk step's updates, put together (R94). On Index the slot the pixel is not written to holds it (R96). -/
theorem writeChunk_eq {u : State}
    (he : emit (flushRun s.enc.run ++ bytesOf (classify s.cfg.diffTie cur s.enc.prev s.enc.cache)) s = .next u) :
    nextPixel (rememberUnlessIndex (classify s.cfg.diffTie cur s.enc.prev s.enc.cache) cur (setRunPrev 0 cur u)) =
      chunkWritten (classify s.cfg.diffTie cur s.enc.prev s.enc.cache) cur s := by
  obtain ⟨_, hu⟩ := emit_eq_next.1 he
  have hit : ∀ k, classify s.cfg.diffTie cur s.enc.prev s.enc.cache = .index k →
      slot (setRunPrev 0 cur u).enc.cache (pixelHash cur) = cur := fun _ hk => by
    rw [hu]
    exact (classify_index hk).2
  rw [rememberUnlessIndex_eq hit, hu, chunkWritten, List.append_assoc]
  rfl

/-- In BODY, at another pixel, with room for the bytes (R94). -/
theorem encoderStep_chunk (hb : s.enc.phase = .body) (hi : s.enc.idx < area s.enc.width s.enc.height)
    (hc : s.enc.pix[s.enc.idx]? = some cur) (h : cur ≠ s.enc.prev)
    (hm : ∀ m, s.cfg.maxStream = some m → s.enc.out.length + (flushRun s.enc.run).length +
      (bytesOf (classify s.cfg.diffTie cur s.enc.prev s.enc.cache)).length ≤ m) :
    encoderStep s = .next (chunkWritten (classify s.cfg.diffTie cur s.enc.prev s.enc.cache) cur s) := by
  have emitted := emit_of_fits (s := s)
    (bs := flushRun s.enc.run ++ bytesOf (classify s.cfg.diffTie cur s.enc.prev s.enc.cache))
    (by rwa [List.length_append, ← Nat.add_assoc])
  rw [encoderStep_of_pixel hb hi, pixelStep_of_chunk hc h, emitChunk, emitted, andThen, writeChunk_eq emitted]

/-- In BODY, after the last pixel, with room for the bytes (R100). -/
theorem encoderStep_finish (hb : s.enc.phase = .body) (hi : s.enc.idx = area s.enc.width s.enc.height)
    (hm : ∀ m, s.cfg.maxStream = some m → s.enc.out.length + (flushRun s.enc.run).length + 8 ≤ m) :
    encoderStep s = .next (encodeFinished s) := by
  rw [encoderStep_of_finish hb hi, encoderFinish,
    emit_of_fits (by rwa [List.length_append, ← Nat.add_assoc]), andThen, encodeFinished, List.append_assoc]
  rfl

end

/-- An encoder step outside BODY leaves the state as it is, and in BODY one of three states (R92, R100). -/
theorem encoderStep_result {s t : State} (h : encoderStep s = .next t) :
    (s.enc.phase ≠ .body ∧ t = s) ∨ (s.enc.phase = .body ∧
      (t = runCounted s ∨ (∃ v cur, v ≠ .run ∧ t = chunkWritten v cur s) ∨
        (s.enc.idx = area s.enc.width s.enc.height ∧ t = encodeFinished s))) := by
  rcases encoderStep_inv h with unmoved | ⟨hb, _, hp⟩ | ⟨hb, hi, u, hu, rfl⟩
  · exact .inl unmoved
  · obtain ⟨cur, _, ⟨hv, rfl⟩ | ⟨hv, u, hu, rfl⟩⟩ := pixelStep_inv hp
    · rw [classify_run hv]
      exact .inr ⟨hb, .inl rfl⟩
    · exact .inr ⟨hb, .inr (.inl ⟨_, cur, hv, writeChunk_eq hu⟩)⟩
  · obtain ⟨_, rfl⟩ := emit_eq_next.1 hu
    refine .inr ⟨hb, .inr (.inr ⟨hi, ?_⟩)⟩
    rw [encodeFinished, List.append_assoc]
    rfl

/-- An encoder START answers one state only (R91). -/
theorem encoderStart_result {s t : State} (h : encoderStart s = .next t) : t = headerWritten s := by
  obtain ⟨_, _, _, _, he⟩ := encoderStart_inv h
  exact (emit_eq_next.1 he).2

/-! ## What each transition does -/

/-- Settles O35: an admitted START leaves `headerWritten`; each test that fails gives its refusal. -/
theorem encoderStartEffect : Obligations.EncoderStartEffect := by
  refine ⟨fun s hb hch hcs hl hp hm => ?_, fun s => ⟨fun hb => ?_, fun hb hf => ?_, fun hb hf hl => ?_,
    fun hb hf hl hp => ?_⟩⟩
  · have started := encoderStart_eq (s := noAnswer s) hb ((legalFormat_iff _ _).2 ⟨hch, hcs⟩) hl hp hm
    exact ⟨headerWritten (noAnswer s), started, rfl, rfl, rfl, rfl, rfl, slot_zero, rfl, rfl, rfl, rfl, rfl, rfl, rfl,
      rfl, rfl, ⟨rfl, rfl, rfl, rfl, rfl, rfl⟩⟩
  · exact encoderStart_in_body (s := noAnswer s) hb
  · exact encoderStart_of_format (s := noAnswer s) hb hf
  · exact encoderStart_of_count (s := noAnswer s) hb hf hl
  · exact encoderStart_of_area (s := noAnswer s) hb hf hl hp

/-- Settles O36: the step leaves `runCounted`. -/
theorem encoderRunStepEffect : Obligations.EncoderRunStepEffect := fun _ _ hb hi hc h hw =>
  ⟨_, encoderStep_run hb hi hc h hw, rfl, ⟨rfl, rfl, rfl, rfl, rfl, rfl⟩⟩

/-- Settles O37: the step leaves `chunkWritten`, whose one cache write is that of `remember`. -/
theorem encoderChunkStepEffect : Obligations.EncoderChunkStepEffect := fun _ cur hb hi hc h hm =>
  ⟨_, encoderStep_chunk hb hi hc h hm, rfl, rfl, rfl, rfl, remember_of_hit, slot_remember_same _ cur,
    fun _ hk => slot_remember_other _ hk, hb, rfl, rfl, rfl, rfl, rfl, rfl, rfl, rfl, ⟨rfl, rfl, rfl, rfl, rfl, rfl⟩⟩

/-- Settles O38: the step leaves `encodeFinished`. -/
theorem encoderFinishEffect : Obligations.EncoderFinishEffect := fun _ hb hi hm =>
  ⟨_, encoderStep_finish hb hi hm, rfl, ⟨rfl, rfl, rfl, rfl, rfl, rfl⟩⟩

end Sys2Proof.Machine
end

section
/-! SUPPORT. The size bounds: a chunk is one to five bytes and one to 62 pixels, so the scan and ENC.OUT stay within
them, and with MAX_STREAM fit to MAX_PIXELS the encoder never stops (R98, R104, R131, R149). -/

namespace Sys2Proof.Machine

/-! ## The bounds, engine by engine -/

/-- The bytes scanned against the pixels produced (R131). -/
structure ScanSize (d : Decoder) : Prop where
  bytes : d.pos ≤ Config.headerLength + 5 * d.npix
  count : d.npix + 62 * Config.headerLength ≤ 62 * d.pos

/-- ENC.OUT of a running encode against the pixels consumed, of which the pending run is not written yet (R98). -/
structure RunningSize (e : Encoder) : Prop where
  run   : e.run ≤ e.idx
  most  : e.out.length + 5 * e.run ≤ 14 + 5 * e.idx
  least : e.idx + 62 * 14 ≤ 62 * e.out.length + e.run

/-- ENC.OUT of a finished encode against the image (R98). -/
structure FinishedSize (e : Encoder) : Prop where
  most  : e.out.length ≤ 22 + 5 * area e.width e.height
  least : area e.width e.height + 62 * 22 ≤ 62 * e.out.length

/-- The encoder's bounds by its phase. -/
structure OutSize (e : Encoder) : Prop where
  body : e.phase = .body → RunningSize e
  done : e.phase = .done → FinishedSize e

/-- The size bounds are those of the two engines. -/
theorem sizeInv_iff (s : State) : SizeInv s ↔ (s.dec.phase = .body → ScanSize s.dec) ∧ OutSize s.enc :=
  ⟨fun h => ⟨fun hb => ⟨h.scanBytes hb, h.scanCount hb⟩, fun hb => ⟨h.bodyRun hb, h.bodyMost hb, h.bodyLeast hb⟩,
      fun hd => ⟨h.doneMost hd, h.doneLeast hd⟩⟩,
    fun ⟨scan, out⟩ => ⟨fun hb => (scan hb).bytes, fun hb => (scan hb).count, fun hb => (out.body hb).run,
      fun hb => (out.body hb).most, fun hb => (out.body hb).least, fun hd => (out.done hd).most,
      fun hd => (out.done hd).least⟩⟩

/-! ## The decoder -/

/-- One to 62 pixels from one to five bytes keep the scan's bounds. -/
theorem ScanSize.grow {d d' : Decoder} {n k : Nat} (h : ScanSize d) (hpos : d'.pos = d.pos + k)
    (hnpix : d'.npix = d.npix + n) (hk : 1 ≤ k ∧ k ≤ 5) (hn : 1 ≤ n ∧ n ≤ 62) : ScanSize d' := by
  obtain ⟨bytes, count⟩ := h
  constructor <;> omega

/-- A well-formed chunk keeps them (R131). -/
theorem ScanSize.exec_chunk {i : Instr} {s t : State} (h : ScanSize s.dec) (hp : i.place = .body)
    (hw : i.wellFormed = true) (he : exec i s = .next t) : ScanSize t.dec := by
  rcases Machine.exec_chunk hp s with ⟨p, hx⟩ | ⟨n, rfl, hx⟩
  · cases hx.symm.trans he
    exact h.grow rfl rfl (chunk_length hp) ⟨by decide, by decide⟩
  · cases hx.symm.trans he
    rw [produceRun_eq]
    exact h.grow rfl rfl (chunk_length hp) ((wellFormed_run n).1 hw)

/-- A decoder step keeps them. -/
theorem scanSize_decoderStep {s t : State} (h : s.dec.phase = .body → ScanSize s.dec)
    (hs : decoderStep s = .next t) (hb : t.dec.phase = .body) : ScanSize t.dec := by
  rcases decoderStep_inv hs with
    ⟨_, rfl⟩ | ⟨hbody, ⟨i, hi, he⟩ | ⟨_, rfl⟩ | ⟨_, rfl⟩ | ⟨_, _, rfl⟩ | ⟨_, _, rfl⟩⟩
  case inl => exact h hb
  case inr.inl =>
    obtain ⟨hp, hw, _⟩ := fetch_unit hi
    exact (h hbody).exec_chunk hp hw he
  all_goals cases hb

/-- A decoder START that begins the scan establishes them (R113). -/
theorem scanSize_decoderStart {s t : State} (hs : decoderStart s = .next t) (hb : t.dec.phase = .body) :
    ScanSize t.dec := by
  rcases (decoderStart_inv hs).2 with rfl | rfl | ⟨w, hh, ch, cs, rfl | rfl | ⟨rfl, _⟩⟩
  case inr.inr.inr.inr => exact ⟨le_refl _, le_refl _⟩
  all_goals cases hb

/-! ## The encoder -/

/-- The header is 14 bytes (R46). -/
theorem encoderHeader_length (e : Encoder) : (encoderHeader e).length = 14 := encode_length _

/-- START establishes the bounds of a running encode (R91). -/
theorem runningSize_headerWritten (s : State) : RunningSize (headerWritten s).enc := by
  have header : (headerWritten s).enc.out.length = 14 := encoderHeader_length _
  exact ⟨le_refl _, header.le, by rw [header]; exact Nat.le_add_right _ _⟩

section
variable {s : State} (h : RunningSize s.enc)
include h

/-- The Run step keeps them (R93). -/
theorem RunningSize.runCounted : RunningSize (runCounted s).enc := by
  obtain ⟨run, most, least⟩ := h
  constructor <;> simp only [Machine.runCounted] <;> omega

/-- The chunk step keeps them: a run of n is written in n over 62 bytes, rounded up (R94, R99). -/
theorem RunningSize.chunkWritten {v : Verdict} (hv : v ≠ .run) (cur : Pixel) :
    RunningSize (chunkWritten v cur s).enc := by
  obtain ⟨run, most, least⟩ := h
  have chunk := bytesOf_length hv
  have flushed := flushRun_length s.enc.run
  constructor <;> simp only [Machine.chunkWritten, List.length_append] <;> omega

/-- FINISH turns them into those of the finished encode, at the last pixel (R98, R100). -/
theorem RunningSize.encodeFinished (hi : s.enc.idx = area s.enc.width s.enc.height) :
    FinishedSize (encodeFinished s).enc := by
  obtain ⟨run, most, least⟩ := h
  have mark : (encode .endMark).length = 8 := rfl
  have flushed := flushRun_length s.enc.run
  constructor <;> simp only [Machine.encodeFinished, List.length_append] <;> omega

/-- What the chunk step and FINISH are about to write fits 22 bytes and five a pixel (R98). -/
theorem RunningSize.flushed_le : s.enc.out.length + (flushRun s.enc.run).length ≤ 14 + 5 * s.enc.idx := by
  obtain ⟨_, most, _⟩ := h
  rw [flushRun_length]
  omega

end

/-- An encoder step keeps the encoder's bounds. -/
theorem OutSize.encoderStep {s t : State} (h : OutSize s.enc) (hs : encoderStep s = .next t) : OutSize t.enc := by
  rcases encoderStep_result hs with ⟨_, rfl⟩ | ⟨hb, rfl | ⟨v, cur, hv, rfl⟩ | ⟨hi, rfl⟩⟩
  · exact h
  · exact ⟨fun _ => (h.body hb).runCounted, fun hd => by cases hb.symm.trans hd⟩
  · exact ⟨fun _ => (h.body hb).chunkWritten hv cur, fun hd => by cases hb.symm.trans hd⟩
  · exact ⟨nofun, fun _ => (h.body hb).encodeFinished hi⟩

/-- An encoder START establishes them. -/
theorem OutSize.of_encoderStart {s t : State} (hs : encoderStart s = .next t) : OutSize t.enc := by
  rw [encoderStart_result hs]
  exact ⟨fun _ => runningSize_headerWritten s, nofun⟩

/-- A write of ENC.PIX or a configuration register keeps them: they speak of what START latched (R31, R91). -/
theorem OutSize.encInputs {s t : State} (h : OutSize s.enc) (hi : EncInputs s t) : OutSize t.enc := by
  obtain ⟨hp, w, hh, f, ps, rfl⟩ := hi
  exact ⟨fun hb => absurd hb hp, fun hd => ⟨(h.done hd).most, (h.done hd).least⟩⟩

/-! ## The block -/

/-- A host request keeps the bounds. -/
theorem SizeInv.serve {r : Request} {s t : State} (hs : SizeInv s) (h : serve r s = .next t) : SizeInv t := by
  obtain ⟨scan, out⟩ := (sizeInv_iff s).1 hs
  rw [sizeInv_iff]
  rcases serve_inv h with hd | he | hi | hi | ⟨_, _, _, rfl⟩
  · exact ⟨scanSize_decoderStart hd, (decoderStart_outside hd).enc.symm ▸ out⟩
  · exact ⟨(encoderStart_outside he).dec.symm ▸ scan, .of_encoderStart he⟩
  · have kept := out.encInputs hi
    obtain ⟨_, _, _, _, _, rfl⟩ := hi
    exact ⟨scan, kept⟩
  · obtain ⟨hp, _, _, _, rfl⟩ := hi
    exact ⟨fun hb => absurd hb hp, out⟩
  · exact ⟨scan, out⟩

/-- Settles O51: a host request and each engine's step keep the bounds of the engine they move, and leave the other
engine alone. -/
theorem stepKeepsSizeBounds : Obligations.StepKeepsSizeBounds := by
  intro s t hs h
  have popped : SizeInv (popTurn s) := (sizeInv_iff _).2 ((sizeInv_iff s).1 hs)
  obtain ⟨scan, out⟩ := (sizeInv_iff _).1 popped
  rcases step_inv h with ⟨r, hr⟩ | he | hd
  · exact popped.serve hr
  · exact (sizeInv_iff t).2 ⟨(encoderStep_frame he).1.dec.symm ▸ scan, out.encoderStep he⟩
  · exact (sizeInv_iff t).2 ⟨scanSize_decoderStep scan hd, (decoderStep_frame hd).1.enc.symm ▸ out⟩

/-! ## The encoder never stops -/

/-- A MAX_STREAM that fits MAX_PIXELS has room for 22 bytes and five a pixel of an image within MAX_PIXELS (R98). -/
theorem room_of_wf {c : Config} (hc : c.wf = true) {n : Nat} (hn : ∀ p, c.maxPixels = some p → n ≤ p) {m : Nat}
    (hm : c.maxStream = some m) : 22 + 5 * n ≤ m := by
  unfold Config.wf at hc
  rw [hm] at hc
  cases hp : c.maxPixels with
  | none => simp [hp] at hc
  | some p =>
    have fits : 22 + 5 * p ≤ m := by simpa [hp] using hc
    have within := hn p hp
    omega

/-- Settles O39: by the invariant there is a pixel or the image ends, and by the size bounds what is written fits. -/
theorem encoderNeverStops : Obligations.EncoderNeverStops := by
  intro s hinv hsize hwf hrun hmax
  by_cases hb : s.enc.phase = .body
  · have running := ((sizeInv_iff s).1 hsize).2.body hb
    have flushed := running.flushed_le
    rcases (hinv.enc.index hb).lt_or_eq with hi | hi
    · have inside : s.enc.idx < s.enc.pix.length := by rwa [hinv.enc.pixels hb]
      have here := List.getElem?_eq_getElem inside
      by_cases same : s.enc.pix[s.enc.idx] = s.enc.prev
      · exact ⟨_, encoderStep_run hb hi here same (by simp [hrun]), hinv.enc.phase, fun _ => .inl rfl⟩
      · refine ⟨_, encoderStep_chunk hb hi here same fun m hm => ?_, hinv.enc.phase, fun _ => .inl rfl⟩
        have room := room_of_wf hwf hmax hm
        have chunk := bytesOf_length (mt (classify_run (tie := s.cfg.diffTie) (cache := s.enc.cache)) same)
        have left : s.enc.idx < s.enc.width.toNat * s.enc.height.toNat := hi
        omega
    · refine ⟨_, encoderStep_finish hb hi fun m hm => ?_, nofun, fun _ => .inr rfl⟩
      have room := room_of_wf hwf hmax hm
      have all : s.enc.idx = s.enc.width.toNat * s.enc.height.toNat := hi
      omega
  · exact ⟨s, if_neg hb, hinv.enc.phase, fun h => absurd h hb⟩

end Sys2Proof.Machine
end

section
/-! SUPPORT. The encoder computes the composed function: what is written and what is still to be written are, at every
pixel, the bytes R102 gives (42_encoder.md R90, R102, R176). -/

namespace Sys2Proof.Machine

/-! ## The composed loop, a pixel at a time -/

/-- A pixel equal to the previous one joins the pending run (R93, R102). -/
theorem encodeLoop_run (tie : DiffTie) (prev : Pixel) (rest : List Pixel) (cache : Cache) (run : Nat) :
    encodeLoop tie (prev :: rest) prev cache run = encodeLoop tie rest prev cache (run + 1) := by
  rw [encodeLoop, classify_eq_run_iff.2 rfl]

/-- Any other pixel writes the pending run and its chunk, and is remembered; on Index it is in its slot already (R94,
R96, R102). -/
theorem encodeLoop_chunk (tie : DiffTie) {cur prev : Pixel} (h : cur ≠ prev) (rest : List Pixel) (cache : Cache)
    (run : Nat) :
    encodeLoop tie (cur :: rest) prev cache run =
      flushRun run ++ bytesOf (classify tie cur prev cache) ++ encodeLoop tie rest cur (remember cache cur) 0 := by
  rw [encodeLoop]
  split
  next hv => exact absurd (classify_run hv) h
  next k hv => rw [hv, remember_of_hit (classify_index hv).2]
  next => rfl

/-! ## The engine, a pixel at a time -/

/-- The bytes before the end marker: those in ENC.OUT and those R102 gives for the pixels left. -/
def bytesBeforeEnd (ps : List Pixel) (s : State) : List Byte :=
  s.enc.out ++ encodeLoop s.cfg.diffTie ps s.enc.prev s.enc.cache s.enc.run

/-- An encode with the pixels `ps` left, which nothing else moves before and whose bounds are wide enough. -/
structure Encoding (ps : List Pixel) (s : State) : Prop where
  agenda  : s.agenda = []
  decoder : s.dec.phase ≠ .body
  body    : s.enc.phase = .body
  left    : s.enc.pix.drop s.enc.idx = ps
  count   : s.enc.idx + ps.length = area s.enc.width s.enc.height
  stream  : ∀ m, s.cfg.maxStream = some m → (bytesBeforeEnd ps s).length + 8 ≤ m
  counter : ∀ w, s.cfg.runWidth = some w → s.enc.run + ps.length < 2 ^ w

/-- With nothing on the agenda and no running decoder, the step is the encoder's (log 1). -/
theorem step_of_idle {s : State} (ha : s.agenda = []) (hd : s.dec.phase ≠ .body) : step s = encoderStep s :=
  (step_of_empty ha).trans (if_neg hd)

theorem bytesBeforeEnd_runCounted (ps : List Pixel) (s : State) :
    bytesBeforeEnd ps (runCounted s) = bytesBeforeEnd (s.enc.prev :: ps) s := by
  rw [bytesBeforeEnd, bytesBeforeEnd, encodeLoop_run]
  rfl

theorem bytesBeforeEnd_chunkWritten {cur : Pixel} {s : State} (h : cur ≠ s.enc.prev) (ps : List Pixel) :
    bytesBeforeEnd ps (chunkWritten (classify s.cfg.diffTie cur s.enc.prev s.enc.cache) cur s) =
      bytesBeforeEnd (cur :: ps) s := by
  simp only [bytesBeforeEnd, encodeLoop_chunk _ h, chunkWritten, List.append_assoc]

/-- One step of the encode: the pixel at its front is consumed, and the bytes before the end marker stay what they are
(R92). -/
theorem Encoding.step_pixel {cur : Pixel} {ps : List Pixel} {s : State} (h : Encoding (cur :: ps) s) :
    ∃ t, step s = .next t ∧ Encoding ps t ∧ bytesBeforeEnd ps t = bytesBeforeEnd (cur :: ps) s ∧ t.dec = s.dec := by
  obtain ⟨agenda, decoder, body, left, count, stream, counter⟩ := h
  rw [List.length_cons] at count counter
  have inside : s.enc.idx < area s.enc.width s.enc.height := by omega
  have here : s.enc.pix[s.enc.idx]? = some cur := by
    rw [← Nat.add_zero s.enc.idx, ← List.getElem?_drop, left]
    rfl
  have left' : s.enc.pix.drop (s.enc.idx + 1) = ps := by rw [← List.tail_drop, left, List.tail_cons]
  have count' : s.enc.idx + 1 + ps.length = area s.enc.width s.enc.height := by omega
  rw [step_of_idle agenda decoder]
  by_cases same : cur = s.enc.prev
  · subst same
    have bytes := bytesBeforeEnd_runCounted ps s
    refine ⟨runCounted s, encoderStep_run body inside here rfl fun w hw => ?_, ?_, bytes, rfl⟩
    · have := counter w hw
      omega
    · exact ⟨agenda, decoder, body, left', count', fun m hm => bytes ▸ stream m hm, fun w hw => by
        have := counter w hw
        simp only [runCounted]
        omega⟩
  · have bytes := bytesBeforeEnd_chunkWritten same ps
    refine ⟨_, encoderStep_chunk body inside here same fun m hm => ?_, ?_, bytes, rfl⟩
    · have := stream m hm
      simp only [bytesBeforeEnd, encodeLoop_chunk _ same, List.length_append] at this
      omega
    · exact ⟨agenda, decoder, body, left', count', fun m hm => bytes ▸ stream m hm, fun w hw => by
        have := counter w hw
        simp only [chunkWritten]
        omega⟩

/-- With no pixel left, FINISH: the end marker after the bytes before it (R100). -/
theorem Encoding.step_finish {s : State} (h : Encoding [] s) :
    ∃ t, step s = .next t ∧ t.enc.phase = .done ∧ t.enc.out = bytesBeforeEnd [] s ++ encode .endMark ∧
      t.dec = s.dec := by
  obtain ⟨agenda, decoder, body, _, count, stream, _⟩ := h
  rw [step_of_idle agenda decoder]
  have fits : ∀ m, s.cfg.maxStream = some m → s.enc.out.length + (flushRun s.enc.run).length + 8 ≤ m := by
    simpa only [bytesBeforeEnd, encodeLoop, List.length_append] using stream
  exact ⟨_, encoderStep_finish body count fits, rfl, rfl, rfl⟩

/-- A step that answers a next state is the first of a run. -/
theorem run_succ {s t : State} (h : step s = .next t) (k : Nat) :
    Host.Core.run core (k + 1) s = Host.Core.run core k t := by
  have stepped : core.step s = .next t := h
  simp only [Host.Core.run, stepped]

/-- The rest of the encode: a step for each pixel left, and FINISH. -/
theorem Encoding.run {ps : List Pixel} {s : State} (h : Encoding ps s) :
    ∃ t, Host.Core.run core (ps.length + 1) s = .next t ∧ t.enc.phase = .done ∧
      t.enc.out = bytesBeforeEnd ps s ++ encode .endMark ∧ t.dec = s.dec := by
  induction ps generalizing s with
  | nil =>
    obtain ⟨t, hstep, done, out, dec⟩ := h.step_finish
    exact ⟨t, run_succ hstep 0, done, out, dec⟩
  | cons cur ps ih =>
    obtain ⟨u, hstep, next, bytes, dec⟩ := h.step_pixel
    obtain ⟨t, hrun, done, out, dec'⟩ := ih next
    exact ⟨t, (run_succ hstep _).trans hrun, done, bytes ▸ out, dec'.trans dec⟩

/-! ## The whole encode -/

/-- The stream's length: 14 bytes of header, the loop's bytes, eight of end marker (R98). -/
theorem encodeImage_length (tie : DiffTie) (i : Image) :
    (encodeImage tie i).length = 14 + (encodeLoop tie i.pixels Pixel.start Cache.zero 0).length + 8 := by
  rw [encodeImage, List.length_append, List.length_append, encode_length, encode_length]
  rfl

/-- Settles O56: START leaves an `Encoding` with every pixel left, whose bytes before the end marker are the header and
the composed loop's. -/
theorem encoderComputesReference : Obligations.EncoderComputesReference := by
  intro s ha hd hb hf hl hp hm hw
  simp only [encodeImage_length] at hm
  have start : step s = .next (headerWritten (noAnswer { s with agenda := [] })) :=
    (step_of_turn ha).trans (encoderStart_eq (s := noAnswer { s with agenda := [] }) hb hf hl hp fun m h => by
      have := hm m h
      omega)
  have encoding : Encoding s.enc.pix (headerWritten (noAnswer { s with agenda := [] })) :=
    { agenda := rfl
      decoder := hd
      body := rfl
      left := rfl
      count := (Nat.zero_add _).trans hl
      stream := fun m h => by
        rw [bytesBeforeEnd, List.length_append]
        exact hm m h
      counter := fun w h => (Nat.zero_add _).trans_lt (hw w h) }
  obtain ⟨t, hrun, done, out, dec⟩ := encoding.run
  refine ⟨t, ?_, done, out, dec⟩
  rw [← hl, run_succ start]
  exact hrun

end Sys2Proof.Machine
end

section
/-! SUPPORT. The round trip: the decoder's loop on what the encoder's loop writes gives the pixels back, the two caches
being allowed to differ where the encoder finds no hit (R106, R171, R173). -/

namespace Sys2Proof.Machine

/-! ## When the decoder's cache serves -/

/-- Every hit of the encoder's cache is a hit of the decoder's, and none but the previous pixel stands in the previous
pixel's slot. The caches are not equal: a RUN at the start of a stream makes the decoder remember the initial pixel,
which the encoder's Run step does not. -/
def CacheServes (prev : Pixel) (enc dec : Cache) : Prop :=
  ∀ p, slot enc (pixelHash p) = p → slot dec (pixelHash p) = p ∧ (pixelHash p = pixelHash prev → p = prev)

/-- At the start of an operation the one hit is the zero pixel, whose slot is not the initial pixel's (R28). -/
theorem cacheServes_start : CacheServes Pixel.start Cache.zero Cache.zero := by
  intro p hit
  refine ⟨hit, fun same => ?_⟩
  rw [slot_zero] at hit
  subst hit
  exact absurd same (by decide)

/-- Remembering a pixel on both sides makes it the previous one (R94, R116). -/
theorem CacheServes.remember {prev : Pixel} {enc dec : Cache} (h : CacheServes prev enc dec) (cur : Pixel) :
    CacheServes cur (remember enc cur) (remember dec cur) := by
  intro p hit
  by_cases hk : pixelHash p = pixelHash cur
  · rw [hk, slot_remember_same] at hit
    subst hit
    exact ⟨slot_remember_same dec cur, fun _ => rfl⟩
  · rw [slot_remember_other enc hk] at hit
    rw [slot_remember_other dec hk]
    exact ⟨(h p hit).1, fun same => absurd same hk⟩

/-- The decoder may remember the previous pixel by itself, as RUN does (R123). -/
theorem CacheServes.remember_prev {prev : Pixel} {enc dec : Cache} (h : CacheServes prev enc dec) :
    CacheServes prev enc (Machine.remember dec prev) := by
  intro p hit
  obtain ⟨found, only⟩ := h p hit
  refine ⟨?_, only⟩
  by_cases hk : pixelHash p = pixelHash prev
  · rw [only hk, slot_remember_same]
  · rw [slot_remember_other dec hk, found]

/-- And any number of times. -/
theorem CacheServes.remember_run {prev : Pixel} {enc dec : Cache} (h : CacheServes prev enc dec) (n : Nat) :
    CacheServes prev enc ((List.replicate n prev).foldl Machine.remember dec) := by
  induction n generalizing dec with
  | zero => exact h
  | succ n ih => exact ih h.remember_prev

/-- The last of some copies of a pixel is that pixel. -/
theorem lastPixel_replicate (n : Nat) (p : Pixel) : lastPixel p (List.replicate n p) = p := by
  rw [lastPixel, List.getLastD_eq_getLast?, List.getLast?_replicate]
  split <;> rfl

/-! ## One chunk -/

/-- The decoder's loop on a chunk's bytes: the chunk's pixels, then the loop on the rest (R129). -/
theorem decodeLoop_chunk {i : Instr} (hp : i.place = .body) (hw : i.wellFormed = true) {fuel : Nat}
    {rest : List Byte} {prev : Pixel} {cache : Cache} {qs : List Pixel}
    (h : decodeLoop fuel rest (lastPixel prev (chunkPixels prev cache i))
      ((chunkPixels prev cache i).foldl remember cache) = .ok qs) :
    decodeLoop (fuel + 1) (encode i ++ rest) prev cache = .ok (chunkPixels prev cache i ++ qs) := by
  have decoded := decodeChunk_encode hp hw rest
  cases hbs : encode i ++ rest with
  | nil =>
    rw [hbs] at decoded
    cases decoded
  | cons b bs =>
    rw [hbs] at decoded
    simp only [decodeLoop, decoded, h]

/-- A verdict other than Run writes a chunk whose one pixel, from a decoder's cache that has the encoder's hits, is the
pixel classified (R88). -/
theorem exists_chunk_of_hits {tie : DiffTie} {cur prev : Pixel} {enc dec : Cache} (new : cur ≠ prev)
    (hits : slot enc (pixelHash cur) = cur → slot dec (pixelHash cur) = cur) :
    ∃ i : Instr, bytesOf (classify tie cur prev enc) = encode i ∧ i.place = .body ∧ i.wellFormed = true ∧
      chunkPixels prev dec i = [cur] := by
  obtain ⟨i, bytes, place, wf, pixels⟩ := (classify_row tie cur prev enc).reproduces
    (cache' := dec.set (pixelHash cur).val (slot enc (pixelHash cur))) (mt classify_run new) (by simp [slot])
  refine ⟨i, bytes, place, wf, ?_⟩
  cases i with
  | index k =>
    by_cases hk : k = pixelHash cur
    · subst hk
      have hit : slot enc (pixelHash cur) = cur := by simpa [chunkPixels, slot] using pixels
      rw [chunkPixels, hits hit]
    · have other : (pixelHash cur).val ≠ k.val := fun e => hk (Fin.ext e.symm)
      simpa [chunkPixels, slot, other] using pixels
  | _ => exact pixels

/-! ## The loop -/

/-- The bytes decode to the pixels, from the previous pixel and any cache that serves. Every chunk has a byte, so the
length is fuel enough. -/
def DecodesTo (prev : Pixel) (enc : Cache) (bs : List Byte) (ps : List Pixel) : Prop :=
  ∀ dec, CacheServes prev enc dec → ∀ fuel, bs.length ≤ fuel → decodeLoop fuel bs prev dec = .ok ps

theorem decodesTo_nil (prev : Pixel) (enc : Cache) : DecodesTo prev enc [] [] := fun _ _ _ _ => by rw [decodeLoop]

/-- A chunk in front of bytes that decode, if what it leaves the decoder with serves them. -/
theorem DecodesTo.cons_chunk {i : Instr} (hp : i.place = .body) (hw : i.wellFormed = true) {prev last : Pixel}
    {enc' dec : Cache} {rest : List Byte} {ps qs : List Pixel} (h : DecodesTo last enc' rest qs)
    (hps : chunkPixels prev dec i = ps) (hlast : lastPixel prev ps = last)
    (serves : CacheServes last enc' (ps.foldl remember dec)) {fuel : Nat} (hf : (encode i ++ rest).length ≤ fuel) :
    decodeLoop fuel (encode i ++ rest) prev dec = .ok (ps ++ qs) := by
  subst hps hlast
  have pos := (chunk_length hp).1
  rw [List.length_append, encode_length] at hf
  obtain ⟨f, rfl⟩ := Nat.exists_eq_add_of_le' (pos.trans ((Nat.le_add_right _ _).trans hf))
  exact decodeLoop_chunk hp hw (h _ serves f (by omega))

/-- RUN chunks in front repeat the previous pixel (R123). -/
theorem DecodesTo.runs {prev : Pixel} {enc : Cache} {rest : List Byte} {qs : List Pixel}
    (h : DecodesTo prev enc rest qs) (lengths : List Nat) (hw : ∀ k ∈ lengths, (Instr.run k).wellFormed = true) :
    DecodesTo prev enc (lengths.flatMap (fun k => encode (.run k)) ++ rest)
      (List.replicate lengths.sum prev ++ qs) := by
  induction lengths with
  | nil => exact h
  | cons k lengths ih =>
    intro dec serves fuel hf
    rw [List.flatMap_cons, List.append_assoc] at hf ⊢
    rw [List.sum_cons, List.replicate_add, List.append_assoc]
    exact (ih fun j hj => hw j (List.mem_cons_of_mem k hj)).cons_chunk rfl (hw k List.mem_cons_self) rfl
      (lastPixel_replicate k prev) (serves.remember_run k) hf

/-- So does a pending run (R97, R171). -/
theorem DecodesTo.flushRun {prev : Pixel} {enc : Cache} {rest : List Byte} {qs : List Pixel}
    (h : DecodesTo prev enc rest qs) (n : Nat) :
    DecodesTo prev enc (flushRun n ++ rest) (List.replicate n prev ++ qs) := by
  have runs := h.runs (runLengths n) fun _ => runLengths_wellFormed
  rwa [← flushRun_eq_runs, runLengths_sum] at runs

/-- The chunk of a verdict in front gives the pixel classified, which both sides remember (R88, R94, R116). -/
theorem DecodesTo.chunk {tie : DiffTie} {cur prev : Pixel} {enc : Cache} {rest : List Byte} {qs : List Pixel}
    (new : cur ≠ prev) (h : DecodesTo cur (remember enc cur) rest qs) :
    DecodesTo prev enc (bytesOf (classify tie cur prev enc) ++ rest) (cur :: qs) := by
  intro dec serves fuel hf
  obtain ⟨i, bytes, place, wf, pixels⟩ := exists_chunk_of_hits (tie := tie) new fun hit => (serves cur hit).1
  rw [bytes] at hf ⊢
  exact h.cons_chunk place wf pixels rfl (serves.remember cur) hf

/-- What the encoder's loop writes decodes to the pending run and the pixels (R171, R173). -/
theorem encodeLoop_decodesTo (tie : DiffTie) (ps : List Pixel) (prev : Pixel) (enc : Cache) (run : Nat) :
    DecodesTo prev enc (encodeLoop tie ps prev enc run) (List.replicate run prev ++ ps) := by
  induction ps generalizing prev enc run with
  | nil =>
    have flushed := (decodesTo_nil prev enc).flushRun run
    rwa [List.append_nil] at flushed
  | cons cur ps ih =>
    by_cases same : cur = prev
    · subst same
      have joined := ih cur enc (run + 1)
      rwa [List.replicate_succ', List.append_assoc, ← encodeLoop_run] at joined
    · rw [encodeLoop_chunk tie same, List.append_assoc]
      exact ((ih cur (remember enc cur) 0).chunk same).flushRun run

/-! ## The stream -/

/-- A legal header within MAX_PIXELS raises nothing and is not refused (R150, R159). -/
theorem decodeFields_of_legal {cfg : Config} {w h : Word} {ch cs : Byte} (hf : legalFormat ch cs = true)
    (hp : ∀ m, cfg.maxPixels = some m → area w h ≤ m) : decodeFields cfg w h ch cs = none := by
  simp [decodeFields, hf, exceeds_eq_false hp]

/-- A stream within MAX_STREAM that begins with such a header and has room for the end marker passes checks 1 to 3
(R112, R129). -/
theorem decodeStream_of_header {cfg : Config} {w h : Word} {ch cs : Byte} {rest : List Byte}
    (hf : legalFormat ch cs = true) (hp : ∀ m, cfg.maxPixels = some m → area w h ≤ m)
    (hm : ∀ m, cfg.maxStream = some m → (encode (.header w h ch cs) ++ rest).length ≤ m) (hr : 8 ≤ rest.length) :
    decodeStream cfg (encode (.header w h ch cs) ++ rest) =
      decodeAfterHeader w h ch cs (encode (.header w h ch cs) ++ rest) := by
  have length : (encode (.header w h ch cs) ++ rest).length = 14 + rest.length := List.length_append
  have magic : (encode (.header w h ch cs) ++ rest).take 4 = Config.magic := rfl
  have room : ¬ (encode (.header w h ch cs) ++ rest).length < Config.headerLength + Config.endLength :=
    not_lt.2 (length ▸ Nat.add_le_add_left hr 14)
  have marked : ¬ (encode (.header w h ch cs) ++ rest).length < 4 := by omega
  simp only [decodeStream, exceeds_eq_false hm, magic, marked, room, decodeHeader_encode, decodeFields_of_legal hf hp,
    ne_eq, not_true_eq_false, or_self, if_false, Bool.false_eq_true]

/-- Behind 14 bytes, and with the end marker last, what is left to decode is the body between them (R129). -/
theorem decodeAfterHeader_framed (w h : Word) (ch cs : Byte) {head : List Byte}
    (hl : head.length = Config.headerLength) (body : List Byte) :
    decodeAfterHeader w h ch cs (head ++ body ++ encode .endMark) = decodeBody w h ch cs body := by
  have length : (head ++ body ++ encode .endMark).length - Config.endLength = (head ++ body).length := by
    rw [List.length_append, encode_length]
    exact Nat.add_sub_cancel ..
  rw [decodeAfterHeader, length, List.drop_left, List.take_left, List.drop_left' hl]
  exact if_neg (not_not_intro rfl)

/-- Settles O58: the stream decodes as its body, and the body is what the encoder's loop wrote. -/
theorem roundTripIsLossless : Obligations.RoundTripIsLossless := by
  intro cfg tie i hwf hf hp hm
  have count : i.pixels.length = area i.width i.height := of_decide_eq_true hwf
  have pixels := encodeLoop_decodesTo tie i.pixels Pixel.start Cache.zero 0 Cache.zero cacheServes_start _ le_rfl
  have room : 8 ≤ (encodeLoop tie i.pixels Pixel.start Cache.zero 0 ++ encode .endMark).length := by
    rw [List.length_append]
    exact Nat.le_add_left ..
  rw [encodeImage, List.append_assoc] at hm ⊢
  rw [decodeStream_of_header hf (count ▸ hp) hm room, ← List.append_assoc, decodeAfterHeader_framed _ _ _ _ rfl,
    decodeBody, pixels]
  exact if_neg (not_not_intro count)

end Sys2Proof.Machine
end

section
/-! SUPPORT. The six chunks: the state a chunk leaves as one equation, its frame, its fetch, and how each kind decodes
(43_decoder.md R114 to R123). -/

namespace Sys2Proof.Machine

/-! ## The state a chunk leaves -/

/-- Some pixels produced, all at once: appended, counted, the last one the previous pixel, each remembered (R116). -/
theorem produceAll_eq (ps : List Pixel) (s : State) :
    produceAll ps s =
      { s with
        dec :=
          { s.dec with
            out := s.dec.out ++ ps
            npix := s.dec.npix + ps.length
            prev := lastPixel s.dec.prev ps
            cache := ps.foldl remember s.dec.cache } } := by
  induction ps generalizing s with
  | nil => simp [produceAll, lastPixel]
  | cons p ps ih =>
    have tail : produceAll (p :: ps) s = produceAll ps (produce p s) := rfl
    have last : lastPixel s.dec.prev (p :: ps) = lastPixel p ps := by cases ps <;> rfl
    rw [tail, ih, last]
    simp [produce, Nat.add_assoc, Nat.add_comm 1]

/-- The state after a chunk: its pixels produced, and DEC.POS behind it (R114, R116). -/
def chunkRead (i : Instr) (s : State) : State :=
  { s with
    dec :=
      { s.dec with
        out := s.dec.out ++ chunkPixels s.dec.prev s.dec.cache i
        npix := s.dec.npix + (chunkPixels s.dec.prev s.dec.cache i).length
        prev := lastPixel s.dec.prev (chunkPixels s.dec.prev s.dec.cache i)
        cache := (chunkPixels s.dec.prev s.dec.cache i).foldl remember s.dec.cache
        pos := s.dec.pos + i.length } }

/-- Every chunk answers that state, whatever the state before it (R117). -/
theorem exec_eq_chunkRead {i : Instr} (hp : i.place = .body) (s : State) : exec i s = .next (chunkRead i s) := by
  rw [exec_eq_produceAll hp, produceAll_eq]
  rfl

/-- What no chunk touches (R39, R116). -/
theorem chunkRead_frame (i : Instr) (s : State) : ChunkFrame s (chunkRead i s) :=
  ⟨⟨rfl, rfl, rfl, rfl, rfl, rfl⟩, ⟨fun _ => rfl, rfl⟩, ⟨rfl, rfl, rfl, rfl⟩, ⟨rfl, rfl, rfl, rfl⟩⟩

/-- Remembering copies of a pixel is remembering it once (R123, D23). -/
theorem foldl_remember_replicate {n : Nat} (hn : 1 ≤ n) (cache : Cache) (p : Pixel) :
    (List.replicate n p).foldl remember cache = remember cache p := by
  induction n, hn using Nat.le_induction with
  | base => rfl
  | succ n _ ih => rw [List.replicate_succ', List.foldl_append, ih, List.foldl_cons, List.foldl_nil, remember_remember]

/-- A chunk whose pixels are copies of one produces them (R116). -/
theorem chunkRead_produced {i : Instr} {s : State} {p : Pixel} {n length : Nat} (hl : i.length = length) (hn : 1 ≤ n)
    (h : chunkPixels s.dec.prev s.dec.cache i = List.replicate n p) : Produced p n length s (chunkRead i s) := by
  have cache : (chunkRead i s).dec.cache = remember s.dec.cache p := by
    rw [chunkRead, h, foldl_remember_replicate hn]
  refine
    { out := by rw [chunkRead, h]
      npix := by rw [chunkRead, h, List.length_replicate]
      prev := ?_
      hit := by rw [cache, slot_remember_same]
      others := fun k hk => by rw [cache, slot_remember_other _ hk]
      pos := by rw [← hl]; rfl }
  obtain ⟨m, rfl⟩ := Nat.exists_eq_add_of_le' hn
  rw [chunkRead, h, List.replicate_succ']
  exact List.getLastD_concat

/-! ## Fetching a chunk -/

/-- A tag byte in the stream decides the row (R114). -/
theorem fetch_of_tag {d : Decoder} {t : Byte} {row : ChunkRow} (hin : d.pos < d.inLen)
    (ht : d.inp.read d.pos = some t) (hr : rowOf t = some row) : fetch d = fetchPayload d row := by
  have read : memRead d d.pos 1 = .ok [t] := memRead_of_bytes (bs := [t]) hin fun k b hk => by
    cases k with
    | zero =>
      cases hk
      exact ht
    | succ k => cases hk
  simp only [fetch, read, hr]

/-- A chunk that would pass DEC.END is truncated, and of it no byte but the tag is read (R124). -/
theorem fetch_truncated {d : Decoder} {t : Byte} {row : ChunkRow} (hin : d.pos < d.inLen)
    (ht : d.inp.read d.pos = some t) (hr : rowOf t = some row) (hcut : d.limit < d.pos + row.length) :
    fetch d = .truncated := by
  rw [fetch_of_tag hin ht hr]
  exact if_pos hcut

/-- The bytes of a well-formed chunk that ends at or before DEC.END are fetched as that chunk (R114, R115). -/
theorem fetch_encoded {d : Decoder} {i : Instr} (hp : i.place = .body) (hw : i.wellFormed = true)
    (hfit : d.pos + i.length ≤ d.limit) (hl : d.limit ≤ d.inLen)
    (hb : ∀ k b, (encode i)[k]? = some b → d.inp.read (d.pos + k) = some b) : fetch d = .unit i := by
  have decoded : decodeChunk (encode i) = .ok (i, []) := by simpa using decodeChunk_encode hp hw []
  obtain ⟨t, tail, row, hbytes, hr, ho⟩ := decodeChunk_inv decoded
  have length : (encode i).length = row.length := by
    rw [encode_length, row_length hr, (chunkOperands_inv ho).2.2]
  have fits : d.pos + row.length ≤ d.limit := by rwa [← length, encode_length]
  have read : memRead d d.pos row.length = .ok (encode i) := length ▸ memRead_of_bytes (by omega) hb
  have inside : d.pos < d.inLen := by
    have := (chunk_length hp).1
    omega
  rw [fetch_of_tag inside (hb 0 t (by rw [hbytes]; rfl)) hr]
  simp only [fetchPayload, read, decoded, if_neg fits.not_gt]

/-- Where the row of the tag gives a length past DEC.END, the step raises and runs no chunk (R124). -/
theorem chunkStep_truncated {s : State} {t : Byte} {row : ChunkRow} (hlt : s.dec.pos < s.dec.limit)
    (hl : s.dec.limit ≤ s.dec.inLen) (ht : s.dec.inp.read s.dec.pos = some t) (hr : rowOf t = some row)
    (hcut : s.dec.limit < s.dec.pos + row.length) :
    chunkStep s = .next (raiseDec .decodeError .truncatedChunk s) := by
  simp only [chunkStep, fetch_truncated (hlt.trans_le hl) ht hr hcut]

/-- Where a well-formed chunk stands and fits, the step runs it (R114). -/
theorem chunkStep_encoded {s : State} {i : Instr} (hp : i.place = .body) (hw : i.wellFormed = true)
    (hfit : s.dec.pos + i.length ≤ s.dec.limit) (hl : s.dec.limit ≤ s.dec.inLen)
    (hb : ∀ k b, (encode i)[k]? = some b → s.dec.inp.read (s.dec.pos + k) = some b) :
    chunkStep s = exec i s := by
  simp only [chunkStep, fetch_encoded hp hw hfit hl hb]

/-- Settles O23: the step is the chunk step, which runs the chunk. -/
theorem stepRunsDecodedChunk : Obligations.StepRunsDecodedChunk := by
  intro s i hm hb hp hw hfit hl hbytes
  have before : s.dec.pos < s.dec.limit := by
    have := (chunk_length hp).1
    omega
  rw [step_of_chunk hm hb before]
  exact chunkStep_encoded (s := popTurn s) hp hw hfit hl hbytes

/-- A chunk met before DEC.END that passes it is longer than one byte: RGB, RGBA or LUMA (R48, R124). -/
theorem row_of_long {t : Byte} {row : ChunkRow} (hr : rowOf t = some row) (hlong : 1 < row.length) :
    row.kind = .rgb ∧ row.length = 4 ∨ row.kind = .rgba ∧ row.length = 5 ∨ row.kind = .luma ∧ row.length = 2 := by
  rw [row_length hr] at hlong ⊢
  generalize row.kind = k at hlong ⊢
  cases k with
  | rgb => exact .inl ⟨rfl, rfl⟩
  | rgba => exact .inr (.inl ⟨rfl, rfl⟩)
  | luma => exact .inr (.inr ⟨rfl, rfl⟩)
  | diff | index | run => exact absurd hlong (lt_irrefl 1)

/-- Settles O24: the chunk step raises on the one byte it has read; a chunk of one byte is never cut. -/
theorem truncatedChunkFaults : Obligations.TruncatedChunkFaults := by
  refine ⟨fun s t row hm hb hlt hl ht hr hcut => ⟨?_, row_of_long hr (by omega)⟩, fun k c s =>
    ⟨rfl, rfl, rfl, rfl, rfl, rfl, rfl, rfl⟩⟩
  rw [step_of_chunk hm hb hlt]
  exact chunkStep_truncated (s := popTurn s) hlt hl ht hr hcut

/-! ## The six chunks -/

/-- A first byte of a kind, met where that kind's length passes DEC.END, raises (R124). -/
theorem cutShort_of_starts {k : ChunkKind} {t : Byte} (h : Starts k t) : CutShort t (kindLength k) := by
  intro s hm hb hlt hl ht hcut
  obtain ⟨row, hr, rfl⟩ := (rowOf_kind_iff t k).2 h
  rw [← row_length hr] at hcut
  exact (truncatedChunkFaults.1 s t row hm hb hlt hl ht hr hcut).1

/-- A field of a byte is that slice of its bits (R7). -/
theorem byteField_eq_extractLsb' (b : Byte) (low width : Nat) :
    byteField b low width = (b.extractLsb' low width).toNat := by
  rw [byteField, BitVec.extractLsb'_toNat, Nat.shiftRight_eq_div_pow]

/-- The tag of a byte is its value over 64 (R48). -/
theorem toNat_div_of_tag {t : Byte} {tag : BitVec 2} (h : t.extractLsb' 6 2 = tag) : t.toNat / 64 = tag.toNat := by
  have low := t.isLt
  rw [← h, ← byteField_eq_extractLsb', byteField]
  omega

/-- Top bits 01 start a DIFF (R56). -/
theorem starts_diff {t : Byte} (h : t.extractLsb' 6 2 = 0b01#2) : Starts .diff t := by
  have quot : t.toNat / 64 = 1 := toNat_div_of_tag h
  rw [Starts]
  omega

/-- Top bits 10 start a LUMA (R56). -/
theorem starts_luma {t : Byte} (h : t.extractLsb' 6 2 = 0b10#2) : Starts .luma t := by
  have quot : t.toNat / 64 = 2 := toNat_div_of_tag h
  rw [Starts]
  omega

/-- Settles O13: the one pixel takes its alpha from the previous one. -/
theorem rgbChunkEffect : Obligations.RgbChunkEffect :=
  ⟨fun r g b rest => decodeChunk_encode (i := .rgb r g b) rfl rfl rest,
    fun _ _ _ s => ⟨_, exec_eq_chunkRead rfl s, chunkRead_produced rfl le_rfl rfl, chunkRead_frame _ s⟩,
    cutShort_of_starts (k := .rgb) rfl⟩

/-- Settles O14: the one pixel is the four bytes. -/
theorem rgbaChunkEffect : Obligations.RgbaChunkEffect :=
  ⟨fun r g b a rest => decodeChunk_encode (i := .rgba r g b a) rfl rfl rest,
    fun _ _ _ _ s => ⟨_, exec_eq_chunkRead rfl s, chunkRead_produced rfl le_rfl rfl, chunkRead_frame _ s⟩,
    cutShort_of_starts (k := .rgba) rfl⟩

/-- Settles O15: the three fields are slices of the byte, and each channel is a wrapping sum. -/
theorem diffChunkEffect : Obligations.DiffChunkEffect := by
  refine ⟨fun t rest ht => decodeChunk_of_row ((rowOf_kind_iff t _).2 (starts_diff ht)) ?_, fun dr dg db s =>
    ⟨addDeltas s.dec.prev dr dg db, _, exec_eq_chunkRead rfl s, toNat_add8 .., toNat_add8 .., toNat_add8 .., rfl,
      chunkRead_produced rfl le_rfl rfl, chunkRead_frame _ s⟩⟩
  simp only [chunkOperands, byteField_eq_extractLsb']
  rfl

/-- Settles O16: the pixel produced is the slot's, whatever its hash. -/
theorem indexChunkEffect : Obligations.IndexChunkEffect := by
  refine ⟨fun idx rest => ?_, fun _ s =>
    ⟨_, exec_eq_chunkRead rfl s, chunkRead_produced rfl le_rfl rfl, chunkRead_frame _ s⟩⟩
  have decoded := decodeChunk_index idx rest
  rwa [show tagByte Config.tagIndex idx.val = BitVec.ofNat 8 idx.val by simp [tagByte, Config.tagIndex]] at decoded

/-- Settles O17: the fields are slices of the two bytes, dr and db are rebuilt, and each channel is a wrapping sum. -/
theorem lumaChunkEffect : Obligations.LumaChunkEffect := by
  refine ⟨fun t u rest ht => decodeChunk_of_row ((rowOf_kind_iff t _).2 (starts_luma ht)) ?_, fun dg drDg dbDg s =>
    ⟨addDeltas s.dec.prev (drDg + dg) dg (dbDg + dg), _, exec_eq_chunkRead rfl s, toNat_add8 .., toNat_add8 ..,
      toNat_add8 .., rfl, chunkRead_produced rfl le_rfl rfl, chunkRead_frame _ s⟩,
    fun t ht => cutShort_of_starts (starts_luma ht)⟩
  simp only [chunkOperands, byteField_eq_extractLsb']
  rfl

/-- Settles O18: a length has one encoding, and copies of the previous pixel keep it. -/
theorem runChunkEffect : Obligations.RunChunkEffect := by
  refine ⟨fun n rest hl hu => ?_, fun n s hw => ?_⟩
  · exact decodeChunk_encode (i := .run n) rfl ((wellFormed_run n).2 ⟨hl, hu⟩) rest
  · exact ⟨_, exec_eq_chunkRead rfl s, chunkRead_produced rfl ((wellFormed_run n).1 hw).1 rfl, chunkRead_frame _ s⟩

end Sys2Proof.Machine
end

section
/-! SUPPORT. The body scan: what the bytes left before DEC.END make the next decoder step, FINISH, and that the scan
never stops (43_decoder.md R110, R114, R124, R125, R127). -/

namespace Sys2Proof.Machine

/-! ## FINISH -/

/-- At DEC.END the step is FINISH (R127). -/
theorem decoderStep_of_end {s : State} (hb : s.dec.phase = .body) (he : s.dec.pos = s.dec.limit) :
    decoderStep s = decoderFinish s := by
  rw [decoderStep, if_pos hb, if_neg he.not_lt, if_pos he]

/-- A count that is not the exact product (R127). -/
theorem decoderFinish_of_mismatch {s : State} (h : s.dec.npix ≠ area s.dec.width s.dec.height) :
    decoderFinish s = .next (raiseDec .pixelCountMismatch .none s) := if_pos h

/-- The exact product (R127). -/
theorem decoderFinish_of_match {s : State} (h : s.dec.npix = area s.dec.width s.dec.height) :
    decoderFinish s = .next (decoderDone s) := if_neg (not_not_intro h)

/-- Settles O25, by whether the count is the product. -/
theorem finishComparesExactCount : Obligations.FinishComparesExactCount := by
  intro s hm hb he
  have finish : step s = decoderFinish (popTurn s) :=
    (step_of_decoderMoves hm hb).trans (decoderStep_of_end (s := popTurn s) hb he)
  rcases eq_or_ne s.dec.npix (s.dec.width.toNat * s.dec.height.toNat) with count | count
  case' inl =>
    refine ⟨_, finish.trans (decoderFinish_of_match count), fun h => absurd count h, fun _ => ⟨rfl, rfl, rfl⟩, ?_⟩
  case' inr =>
    refine ⟨_, finish.trans (decoderFinish_of_mismatch count), fun _ => ⟨rfl, rfl, rfl⟩, fun h => absurd h count, ?_⟩
  all_goals
    exact ⟨⟨rfl, rfl, rfl, rfl, rfl, rfl⟩, ⟨fun _ => rfl, rfl⟩, ⟨rfl, rfl, rfl, rfl⟩, ⟨rfl, rfl, rfl, rfl, rfl⟩, rfl⟩

/-! ## The next chunk of some bytes -/

/-- A kind's operands are there when its length is (R48). -/
theorem exists_operands : ∀ {k : ChunkKind} {bs : List Byte}, kindLength k ≤ bs.length →
    ∃ unit, chunkOperands k bs = some unit
  | .rgb, _ :: _ :: _ :: _ :: _, _ => ⟨_, rfl⟩
  | .rgba, _ :: _ :: _ :: _ :: _ :: _, _ => ⟨_, rfl⟩
  | .diff, _ :: _, _ => ⟨_, rfl⟩
  | .index, _ :: _, _ => ⟨_, rfl⟩
  | .luma, _ :: _ :: _, _ => ⟨_, rfl⟩
  | .run, _ :: _, _ => ⟨_, rfl⟩

/-- Bytes that hold no chunk, if there are any, are fewer than the row of the first one asks for (R56, R124). -/
theorem decodeChunk_cases (t : Byte) (tail : List Byte) :
    (∃ i rest, decodeChunk (t :: tail) = .ok (i, rest)) ∨
      (decodeChunk (t :: tail) = .error .truncatedChunk ∧
        ∃ row, rowOf t = some row ∧ (t :: tail).length < row.length) := by
  obtain ⟨row, hr⟩ := Option.ne_none_iff_exists'.1 (rowOf_ne_none t)
  cases ho : chunkOperands row.kind (t :: tail) with
  | some unit => exact .inl ⟨_, _, decodeChunk_of_row ⟨row, hr, rfl⟩ ho⟩
  | none =>
    refine .inr ⟨by simp only [decodeChunk, hr, ho], row, hr, ?_⟩
    rw [row_length hr]
    by_contra hl
    obtain ⟨unit, hu⟩ := exists_operands (not_lt.1 hl)
    cases ho.symm.trans hu

/-! ## The bytes left -/

/-- The bytes from DEC.POS to DEC.END, in place in the stream (R114, R125). -/
structure BodyLeft (bs : List Byte) (s : State) : Prop where
  limit  : s.dec.limit = s.dec.pos + bs.length
  inside : s.dec.limit ≤ s.dec.inLen
  bytes  : ∀ k b, bs[k]? = some b → s.dec.inp.read (s.dec.pos + k) = some b

/-- What a decoder step in BODY does with the bytes left: FINISH if there are none, the fault if they hold no chunk, else
the chunk at their front (R114, R124, R127). -/
theorem BodyLeft.decoderStep_cases {bs : List Byte} {s : State} (h : BodyLeft bs s) (hb : s.dec.phase = .body) :
    (bs = [] ∧ decoderStep s = decoderFinish s) ∨
    (bs ≠ [] ∧ decodeChunk bs = .error .truncatedChunk ∧
      decoderStep s = .next (raiseDec .decodeError .truncatedChunk s)) ∨
    ∃ i rest, decodeChunk bs = .ok (i, rest) ∧ decoderStep s = .next (chunkRead i s) ∧
      BodyLeft rest (chunkRead i s) := by
  obtain ⟨limit, inside, bytes⟩ := h
  rcases bs with _ | ⟨t, tail⟩
  · exact .inl ⟨rfl, decoderStep_of_end hb limit.symm⟩
  have before : s.dec.pos < s.dec.limit := by
    rw [limit, List.length_cons]
    omega
  have chunk : decoderStep s = chunkStep s := by rw [decoderStep, if_pos hb, if_pos before]
  rcases decodeChunk_cases t tail with ⟨i, rest, hd⟩ | ⟨hd, row, hr, hcut⟩
  · obtain ⟨hp, hl, hw⟩ := decodeChunk_spec hd
    have split := encode_of_decodeChunk hd
    rw [split] at bytes
    refine .inr (.inr ⟨i, rest, hd, ?_, ?_⟩)
    · rw [chunk, chunkStep_encoded hp hw (by omega) inside fun k b hk => bytes k b ?_, exec_eq_chunkRead hp]
      rw [List.getElem?_append_left (List.getElem?_eq_some_iff.1 hk).1, hk]
    · refine ⟨?_, inside, fun k b hk => ?_⟩
      · exact (limit.trans (by rw [hl])).trans (Nat.add_assoc ..).symm
      · have later := bytes (i.length + k) b (by
          rw [List.getElem?_append_right (by rw [encode_length]; omega), encode_length, Nat.add_sub_cancel_left, hk])
        rwa [← Nat.add_assoc] at later
  · refine .inr (.inl ⟨List.cons_ne_nil t tail, hd, ?_⟩)
    rw [chunk, chunkStep_truncated before inside (bytes 0 t rfl) hr (by omega)]

/-! ## Liveness -/

/-- The bytes of a range, whatever stands where there is none. -/
def rangeBytes (m : Memory) (a n : Nat) : List Byte := (List.range n).map fun k => (m.read (a + k)).getD 0

/-- With the whole stream in place, the bytes left are those of the range from DEC.POS to DEC.END. -/
theorem bodyLeft_rangeBytes {s : State} (hs : StreamInPlace s) (hp : s.dec.pos ≤ s.dec.limit)
    (hl : s.dec.limit ≤ s.dec.inLen) : BodyLeft (rangeBytes s.dec.inp s.dec.pos (s.dec.limit - s.dec.pos)) s := by
  refine ⟨?_, hl, fun k b hk => ?_⟩
  · rw [rangeBytes, List.length_map, List.length_range, Nat.add_sub_cancel' hp]
  · simp only [rangeBytes, List.getElem?_map, Option.map_eq_some_iff, List.getElem?_eq_some_iff, List.length_range,
      List.getElem_range] at hk
    obtain ⟨_, ⟨hlt, rfl⟩, rfl⟩ := hk
    obtain ⟨b, hb⟩ := Option.isSome_iff_exists.1 (hs (s.dec.pos + k) (by omega))
    rw [hb, Option.getD_some]

/-- Settles O30: by the invariant the bytes left are in place, and each of the three things a step does with them goes
on or ends the scan. -/
theorem decoderNeverStops : Obligations.DecoderNeverStops := by
  intro s hinv hs
  by_cases hb : s.dec.phase = .body
  · have marker := hinv.dec.marker hb
    have left := bodyLeft_rangeBytes hs (hinv.dec.within hb) (marker ▸ Nat.le_add_right ..)
    rcases left.decoderStep_cases hb with ⟨-, hstep⟩ | ⟨-, -, hstep⟩ | ⟨i, rest, hd, hstep, -⟩
    · by_cases count : s.dec.npix = area s.dec.width s.dec.height
      · exact ⟨_, hstep.trans (decoderFinish_of_match count), fun _ => .inr nofun⟩
      · exact ⟨_, hstep.trans (decoderFinish_of_mismatch count), fun _ => .inr nofun⟩
    · exact ⟨_, hstep, fun _ => .inr nofun⟩
    · exact ⟨_, hstep, fun _ => .inl (Nat.lt_add_of_pos_right (chunk_length (decodeChunk_spec hd).1).1)⟩
  · exact ⟨s, if_neg hb, fun h => absurd h hb⟩

end Sys2Proof.Machine
end

section
/-! SUPPORT. The framing units and the decoder's START on a stream in place, check by check (43_decoder.md R111 to R113,
60_exceptions.md R150, R151, R159). -/

namespace Sys2Proof.Machine

/-! ## The framing units -/

/-- A legal HEADER within MAX_PIXELS latches its fields (R112). -/
theorem execHeader_of_legal {w h : Word} {ch cs : Byte} {s : State} (hf : legalFormat ch cs = true)
    (hp : ∀ m, s.cfg.maxPixels = some m → area w h ≤ m) :
    execHeader w h ch cs s = .next (latchHeader w h ch cs s) := by
  have small : checkHeaderArea (latchHeader w h ch cs s) = .next (latchHeader w h ch cs s) := by
    have fits : Config.exceeds s.cfg.maxPixels (area w h) = false := exceeds_eq_false hp
    simp [checkHeaderArea, fits]
  rw [execHeader, hf, if_pos rfl, small]

/-- Settles O19: a well-formed HEADER is a legal one. -/
theorem headerLatchesFields : Obligations.HeaderLatchesFields := fun _ _ ch cs _ hw hp =>
  ⟨_, execHeader_of_legal (ch := ch) (cs := cs) hw hp, rfl, rfl, rfl, rfl, ⟨rfl, rfl, rfl, rfl, rfl, rfl⟩,
    ⟨fun _ => rfl, rfl⟩, ⟨rfl, rfl, rfl, rfl⟩, ⟨rfl, rfl, rfl, rfl, rfl⟩⟩

/-- Settles O22: END leaves `beginScan`, whose cache is the initial one. -/
theorem endBeginsScan : Obligations.EndBeginsScan := fun s =>
  ⟨beginScan s, rfl, rfl, rfl, rfl, slot_zero, rfl, rfl, rfl, rfl, rfl, ⟨rfl, rfl, rfl, rfl, rfl, rfl⟩,
    ⟨fun _ => rfl, rfl⟩, ⟨rfl, rfl, rfl, rfl⟩⟩

/-! ## The shape of a stream -/

/-- A stream that begins with the magic has its four bytes (R46). -/
theorem four_le_of_magic {bs : List Byte} (h : bs.take 4 = Config.magic) : 4 ≤ bs.length := by
  have length := congrArg List.length h
  rw [List.length_take] at length
  exact (length.symm.trans_le (Nat.min_le_right ..) :)

/-- The magic and ten bytes or more hold a header (R46). -/
theorem decodeHeader_of_magic : ∀ {fields : List Byte}, 10 ≤ fields.length →
    ∃ unit, decodeHeader (Config.magic ++ fields) = .ok unit
  | _ :: _ :: _ :: _ :: _ :: _ :: _ :: _ :: _ :: _ :: _, _ => ⟨_, decodeHeader_magic ..⟩

/-- Behind the magic, 14 bytes or more begin with a header (R46, R112). -/
theorem exists_header {bs : List Byte} (hm : bs.take 4 = Config.magic) (hl : 14 ≤ bs.length) :
    ∃ w h ch cs rest, bs = encode (.header w h ch cs) ++ rest := by
  obtain ⟨unit, hu⟩ := decodeHeader_of_magic (fields := bs.drop 4) (by rw [List.length_drop]; omega)
  rw [← hm, List.take_append_drop] at hu
  obtain ⟨w, h, ch, cs, he⟩ := decodeHeader_inv hu
  exact ⟨w, h, ch, cs, unit.2, he ▸ (encode_of_decodeHeader hu).2⟩

/-! ## The checks of START -/

section
variable {s : State} {bs : List Byte} (hs : StreamIs s bs)
include hs

/-! A stream in place depends on DEC.IN and DEC_INLEN only. -/

theorem StreamIs.noAnswer : StreamIs (noAnswer s) bs := ⟨hs.length, hs.bytes⟩

theorem StreamIs.clearDecFault : StreamIs (clearDecFault s) bs := ⟨hs.length, hs.bytes⟩

theorem StreamIs.latchHeader (w h : Word) (ch cs : Byte) : StreamIs (latchHeader w h ch cs s) bs :=
  ⟨hs.length, hs.bytes⟩

/-- Check 1 on a stream without the magic, short ones among them (R112). -/
theorem startCheckMagic_of_other (h : bs.take 4 ≠ Config.magic) :
    startCheckMagic s = .next (raiseDec .headerError .none s) := by
  by_cases hl : bs.length < 4
  · exact if_pos (hs.length.trans_lt hl)
  · have read := memRead_of_streamIs hs 0 4 (by omega)
    rw [List.drop_zero] at read
    rw [startCheckMagic, hs.length, if_neg hl, read]
    exact if_neg h

/-- Check 1 on a stream with it (R112). -/
theorem startCheckMagic_of_magic (h : bs.take 4 = Config.magic) : startCheckMagic s = startCheckHeader s := by
  have hl := four_le_of_magic h
  have read := memRead_of_streamIs hs 0 4 (by omega)
  rw [List.drop_zero, h] at read
  rw [startCheckMagic, hs.length, if_neg hl.not_gt, read]
  exact if_pos rfl

/-- Check 4 on a stream that ends with the marker begins the scan (R112, R113). -/
theorem startCheckEnd_of_marker (hf : s.dec.fault = .none) (hl : 8 ≤ bs.length)
    (h : bs.drop (bs.length - 8) = Config.endMarker) : startCheckEnd s = .next (beginScan s) := by
  have read := memRead_of_streamIs hs (bs.length - 8) 8 (by omega)
  rw [h] at read
  rw [startCheckEnd, if_neg (not_not_intro hf), hs.length]
  simp only [Config.endLength, read]
  rfl

/-- Check 4 on a stream that ends otherwise (R112). -/
theorem startCheckEnd_of_other (hf : s.dec.fault = .none) (hl : 8 ≤ bs.length)
    (h : bs.drop (bs.length - 8) ≠ Config.endMarker) :
    startCheckEnd s = .next (raiseDec .decodeError .endMarker s) := by
  have length : (bs.drop (bs.length - 8)).length = 8 := by
    rw [List.length_drop]
    omega
  have read := memRead_of_streamIs hs (bs.length - 8) 8 (by omega)
  rw [List.take_of_length_le length.le] at read
  have rejected : decode .tail (bs.drop (bs.length - 8)) = .error .badEndMarker :=
    if_neg (by rwa [List.take_of_length_le length.le])
  rw [startCheckEnd, if_neg (not_not_intro hf), hs.length]
  simp only [Config.endLength, read, rejected]

end

/-- Check 3 reads the header at offset 0, and check 4 follows it (R112). -/
theorem startCheckHeader_of_header {s : State} {w h : Word} {ch cs : Byte} {rest : List Byte}
    (hs : StreamIs s (encode (.header w h ch cs) ++ rest)) (hr : 8 ≤ rest.length) :
    startCheckHeader s = andThen (execHeader w h ch cs s) startCheckEnd := by
  have front : (encode (.header w h ch cs)).length = 14 := encode_length _
  have length : (encode (.header w h ch cs) ++ rest).length = 14 + rest.length := List.length_append
  have room : ¬ s.dec.inLen < Config.headerLength + Config.endLength :=
    not_lt.2 (hs.length ▸ length ▸ Nat.add_le_add_left hr 14)
  have read := memRead_of_streamIs hs 0 14 (by omega)
  rw [List.drop_zero, List.take_left' front] at read
  have decoded : decodeHeader (encode (.header w h ch cs)) = .ok (.header w h ch cs, []) := by
    simpa only [List.append_nil] using decodeHeader_encode w h ch cs []
  rw [startCheckHeader, if_neg room]
  simp only [Config.headerLength, read, decode, decoded]
  rfl

/-! ## START, by the first check that decides -/

section
variable {s : State} (hb : s.dec.phase ≠ .body) (hm : ∀ m, s.cfg.maxStream = some m → s.dec.inLen ≤ m)
include hb hm

/-- Outside BODY and within MAX_STREAM, START clears the fault registers and makes its checks (R111). -/
theorem decoderStart_of_admitted : decoderStart s = startCheckMagic (clearDecFault s) := by
  rw [decoderStart, if_neg hb, exceeds_eq_false hm]
  rfl

/-- No magic: HeaderError (R112, R151). -/
theorem decoderStart_of_other {bs : List Byte} (hs : StreamIs s bs) (h : bs.take 4 ≠ Config.magic) :
    decoderStart s = .next (raiseDec .headerError .none (clearDecFault s)) := by
  rw [decoderStart_of_admitted hb hm]
  exact startCheckMagic_of_other hs.clearDecFault h

/-- The magic and no room: END_MARKER (R112, R151). -/
theorem decoderStart_of_short {bs : List Byte} (hs : StreamIs s bs) (h : bs.take 4 = Config.magic)
    (hl : bs.length < 22) : decoderStart s = .next (raiseDec .decodeError .endMarker (clearDecFault s)) := by
  rw [decoderStart_of_admitted hb hm, startCheckMagic_of_magic hs.clearDecFault h]
  exact if_pos (hs.length.trans_lt hl)

/-- A header and room: HEADER runs, and check 4 follows (R112, R151). -/
theorem decoderStart_of_header {w h : Word} {ch cs : Byte} {rest : List Byte}
    (hs : StreamIs s (encode (.header w h ch cs) ++ rest)) (hr : 8 ≤ rest.length) :
    decoderStart s = andThen (execHeader w h ch cs (clearDecFault s)) startCheckEnd := by
  rw [decoderStart_of_admitted hb hm, startCheckMagic_of_magic hs.clearDecFault rfl,
    startCheckHeader_of_header hs.clearDecFault hr]

/-- A legal one within MAX_PIXELS is latched, and check 4 is what is left (R112). -/
theorem decoderStart_of_legal {w h : Word} {ch cs : Byte} {rest : List Byte}
    (hs : StreamIs s (encode (.header w h ch cs) ++ rest)) (hr : 8 ≤ rest.length) (hf : legalFormat ch cs = true)
    (hp : ∀ m, s.cfg.maxPixels = some m → area w h ≤ m) :
    decoderStart s = startCheckEnd (latchHeader w h ch cs (clearDecFault s)) := by
  rw [decoderStart_of_header hb hm hs hr, execHeader_of_legal (s := clearDecFault s) hf hp, andThen]

end

/-- Settles O26: each clause by the check that decides it. -/
theorem startChecksInOrder : Obligations.StartChecksInOrder := by
  intro s bs hs hb hm
  have stream := hs.noAnswer
  have within : ∀ m, (noAnswer s).cfg.maxStream = some m → (noAnswer s).dec.inLen ≤ m := fun m h =>
    hs.length.trans_le (hm m h)
  refine ⟨fun other => ?_, fun magic short => ?_, fun w h ch cs rest hbytes hl hw hp hmark => ?_⟩
  · exact ⟨_, decoderStart_of_other hb within stream other, rfl, rfl, rfl, ⟨rfl, rfl, rfl, rfl, rfl⟩,
      ⟨rfl, rfl, rfl, rfl⟩⟩
  · exact ⟨_, decoderStart_of_short hb within stream magic short, rfl, rfl, rfl, ⟨rfl, rfl, rfl, rfl, rfl⟩,
      ⟨rfl, rfl, rfl, rfl⟩⟩
  · have length : bs.length = 14 + rest.length := hbytes ▸ List.length_append
    have start := decoderStart_of_legal (s := noAnswer s) hb within (hbytes ▸ stream) (by omega) hw hp
    rw [startCheckEnd_of_other (stream.clearDecFault.latchHeader w h ch cs) rfl (by omega) hmark] at start
    exact ⟨_, start, rfl, rfl, rfl, ⟨rfl, rfl, rfl, rfl, rfl⟩, rfl, rfl, rfl, rfl⟩

/-- On a stream of a header, a body and the end marker the scan begins with the body left (R113). -/
theorem bodyLeft_beginScan {s : State} {w h : Word} {ch cs : Byte} {body : List Byte}
    (hs : StreamIs s (encode (.header w h ch cs) ++ body ++ encode .endMark)) : BodyLeft body (beginScan s) := by
  have front : (encode (.header w h ch cs)).length = 14 := encode_length _
  have length : s.dec.inLen = 14 + body.length + 8 := by
    rw [hs.length, List.length_append, List.length_append, front, encode_length]
    rfl
  refine ⟨Nat.sub_eq_of_eq_add length, Nat.sub_le .., fun k b hk => hs.bytes (14 + k) b ?_⟩
  have inside := (List.getElem?_eq_some_iff.1 hk).1
  rw [List.getElem?_append_left (by rw [List.length_append]; omega),
    List.getElem?_append_right (by omega), front, Nat.add_sub_cancel_left, hk]

/-- A stream that ends with the marker passes check 4 (R112, R113). -/
theorem startCheckEnd_of_framed {s : State} {front : List Byte} (hs : StreamIs s (front ++ encode .endMark))
    (hf : s.dec.fault = .none) : startCheckEnd s = .next (beginScan s) := by
  have length : (front ++ encode .endMark).length = front.length + 8 := List.length_append
  refine startCheckEnd_of_marker hs hf (by omega) ?_
  rw [length, Nat.add_sub_cancel, List.drop_left]
  rfl

/-- Settles O27: HEADER and END run, and nothing is raised. -/
theorem startAcceptsFramedStream : Obligations.StartAcceptsFramedStream := by
  intro s w h ch cs body hs hb hm hw hp
  have stream := hs.noAnswer
  have start := decoderStart_of_legal (s := noAnswer s) hb hm (List.append_assoc .. ▸ stream)
    (by rw [List.length_append]; exact Nat.le_add_left ..) hw hp
  rw [startCheckEnd_of_framed (stream.clearDecFault.latchHeader w h ch cs) rfl] at start
  have limit : s.dec.inLen - 8 = 14 + body.length := (bodyLeft_beginScan hs).limit
  exact ⟨_, start, rfl, rfl, rfl, rfl, rfl, rfl, rfl, rfl, limit, rfl, slot_zero, rfl, rfl, ⟨fun _ => rfl, rfl⟩, rfl⟩

end Sys2Proof.Machine
end

section
/-! SUPPORT. The decoder computes the composed function: START ends as its checks say or begins the scan of the body, and
what is decoded and what is still to be decoded make up, at every chunk, the result R129 gives (43_decoder.md R129,
60_exceptions.md R151). -/

namespace Sys2Proof.Machine

/-! ## The composed checks, one at a time -/

/-- A stream longer than MAX_STREAM (R158). -/
theorem decodeStream_of_long {cfg : Config} {bs : List Byte} (h : ∃ m, cfg.maxStream = some m ∧ m < bs.length) :
    decodeStream cfg bs = .refused .streamTooLong := if_pos (exceeds_eq_true h)

section
variable {cfg : Config} {bs : List Byte} (hm : ∀ m, cfg.maxStream = some m → bs.length ≤ m)
include hm

/-- No magic (R112). -/
theorem decodeStream_of_other (h : bs.take 4 ≠ Config.magic) : decodeStream cfg bs = .fault .headerError .none := by
  simp [decodeStream, exceeds_eq_false hm, h]

/-- The magic and no room (R112). -/
theorem decodeStream_of_short (h : bs.take 4 = Config.magic) (hl : bs.length < 22) :
    decodeStream cfg bs = .fault .decodeError .endMarker := by
  have marked := (four_le_of_magic h).not_gt
  have short : bs.length < Config.headerLength + Config.endLength := hl
  simp [decodeStream, exceeds_eq_false hm, h, marked, short]

end

/-- A header and room: what its fields lead to, and behind them the end marker and the body (R112, R129). -/
theorem decodeStream_of_fields {cfg : Config} {w h : Word} {ch cs : Byte} {rest : List Byte}
    (hm : ∀ m, cfg.maxStream = some m → (encode (.header w h ch cs) ++ rest).length ≤ m) (hr : 8 ≤ rest.length) :
    decodeStream cfg (encode (.header w h ch cs) ++ rest) =
      (decodeFields cfg w h ch cs).getD (decodeAfterHeader w h ch cs (encode (.header w h ch cs) ++ rest)) := by
  have length : (encode (.header w h ch cs) ++ rest).length = 14 + rest.length := List.length_append
  have magic : (encode (.header w h ch cs) ++ rest).take 4 = Config.magic := rfl
  have room : ¬ (encode (.header w h ch cs) ++ rest).length < Config.headerLength + Config.endLength :=
    not_lt.2 (length ▸ Nat.add_le_add_left hr 14)
  have marked : ¬ (encode (.header w h ch cs) ++ rest).length < 4 := by omega
  simp only [decodeStream, exceeds_eq_false hm, magic, marked, room, decodeHeader_encode, ne_eq, not_true_eq_false,
    or_self, if_false, Bool.false_eq_true]
  cases decodeFields cfg w h ch cs <;> rfl

/-- A stream that does not end with the marker (R112). -/
theorem decodeAfterHeader_of_other {bs : List Byte} (h : bs.drop (bs.length - 8) ≠ Config.endMarker) (w hh : Word)
    (ch cs : Byte) : decodeAfterHeader w hh ch cs bs = .fault .decodeError .endMarker := if_pos h

/-- HEADER does what R129 makes of the fields: it goes on with them latched, is refused, or faults (R150, R159). -/
theorem execHeader_cases (w h : Word) (ch cs : Byte) (s : State) :
    (decodeFields s.cfg w h ch cs = none ∧ execHeader w h ch cs s = .next (latchHeader w h ch cs s)) ∨
    (∃ r, decodeFields s.cfg w h ch cs = some (.refused r) ∧ execHeader w h ch cs s = .refused r) ∨
    (decodeFields s.cfg w h ch cs = some (.fault .headerError .none) ∧
      execHeader w h ch cs s = .next (raiseDec .headerError .none (latchHeader w h ch cs s))) := by
  have sized : checkHeaderArea (latchHeader w h ch cs s) =
      if Config.exceeds s.cfg.maxPixels (area w h) then .refused .tooManyPixels
      else .next (latchHeader w h ch cs s) := rfl
  simp only [decodeFields, execHeader, sized]
  by_cases legal : legalFormat ch cs = true
  · by_cases large : Config.exceeds s.cfg.maxPixels (area w h) = true <;> simp [legal, large]
  · cases s.cfg.badFmtPolicy with
    | refuse => simp [legal]
    | headerError => simp [legal]
    | pass => by_cases large : Config.exceeds s.cfg.maxPixels (area w h) = true <;> simp [legal, large]

/-! ## START against the composed function -/

/-- A decode has ended as R129 says: in DONE with its Image, or in FAULT with its kind and cause. -/
def Ends : Decoded → State → Prop
  | .image i, t => t.dec.phase = .done ∧ decodedImage t.dec = i ∧ t.dec.fault = .none
  | .fault k c, t => t.dec.phase = .fault ∧ t.dec.fault = k ∧ t.dec.cause = c
  | .refused _, _ => False

/-- Raising a fault ends a decode that R129 says it ends. -/
theorem ends_raiseDec (k : FaultKind) (c : Cause) (s : State) : Ends (.fault k c) (raiseDec k c s) := ⟨rfl, rfl, rfl⟩

/-- What START from `s` on the stream `bs` answers, beside what R129 gives: the same refusal, a state in which the decode
has ended so, or the start of the scan of a body that R129 decodes (R111, R129). -/
inductive Started (s : State) (bs : List Byte) : Result → Decoded → Prop
  | refused (r : Refusal) : Started s bs (.refused r) (.refused r)
  | ended {t : State} {d : Decoded} (ends : Ends d t) : Started s bs (.next t) d
  | scanning {w h : Word} {ch cs : Byte} {body : List Byte}
      (framed : bs = encode (.header w h ch cs) ++ body ++ encode .endMark) :
      Started s bs (.next (beginScan (latchHeader w h ch cs (clearDecFault s)))) (decodeBody w h ch cs body)

/-- A stream with the end marker last, behind some front, has a body before it (R45, R47). -/
theorem exists_body {front rest : List Byte} (hr : 8 ≤ rest.length)
    (h : (front ++ rest).drop ((front ++ rest).length - 8) = Config.endMarker) :
    ∃ body, rest = body ++ encode .endMark := by
  rw [List.length_append, Nat.add_sub_assoc hr, List.drop_length_add_append] at h
  exact ⟨rest.take (rest.length - 8), by rw [encode, ← h, List.take_append_drop]⟩

section
variable {s : State} (hb : s.dec.phase ≠ .body)
include hb

/-- Behind a header the fields decide first, then the end marker (R112). -/
theorem started_of_header {w h : Word} {ch cs : Byte} {rest : List Byte}
    (hs : StreamIs s (encode (.header w h ch cs) ++ rest))
    (hm : ∀ m, s.cfg.maxStream = some m → (encode (.header w h ch cs) ++ rest).length ≤ m) (hr : 8 ≤ rest.length) :
    Started s (encode (.header w h ch cs) ++ rest) (decoderStart s)
      (decodeStream s.cfg (encode (.header w h ch cs) ++ rest)) := by
  rw [decodeStream_of_fields hm hr, decoderStart_of_header hb (hs.length ▸ hm) hs hr]
  rcases execHeader_cases w h ch cs (clearDecFault s) with ⟨hd, he⟩ | ⟨r, hd, he⟩ | ⟨hd, he⟩ <;>
    rw [clearDecFault_cfg] at hd <;> rw [hd, he]
  case inr.inl => exact .refused r
  case inr.inr => exact .ended (ends_raiseDec ..)
  have latched := hs.clearDecFault.latchHeader w h ch cs
  have marked : 8 ≤ (encode (.header w h ch cs) ++ rest).length := by
    rw [List.length_append]
    omega
  rw [andThen, Option.getD_none]
  by_cases mark : (encode (.header w h ch cs) ++ rest).drop ((encode (.header w h ch cs) ++ rest).length - 8) =
      Config.endMarker
  · obtain ⟨body, rfl⟩ := exists_body hr mark
    rw [← List.append_assoc] at latched ⊢
    rw [startCheckEnd_of_framed latched rfl, decodeAfterHeader_framed w h ch cs (encode_length _) body]
    exact .scanning rfl
  · rw [startCheckEnd_of_other latched rfl marked mark, decodeAfterHeader_of_other mark]
    exact .ended (ends_raiseDec ..)

/-- START on a stream in place does as R129 says, or begins the scan (R111, R112, R151). -/
theorem started_of_stream {bs : List Byte} (hs : StreamIs s bs) :
    Started s bs (decoderStart s) (decodeStream s.cfg bs) := by
  by_cases long : ∃ m, s.cfg.maxStream = some m ∧ m < bs.length
  · rw [decodeStream_of_long long, decoderStart, if_neg hb, hs.length, if_pos (exceeds_eq_true long)]
    exact .refused _
  have hm : ∀ m, s.cfg.maxStream = some m → bs.length ≤ m := by simpa using long
  have within : ∀ m, s.cfg.maxStream = some m → s.dec.inLen ≤ m := hs.length ▸ hm
  by_cases magic : bs.take 4 = Config.magic
  case neg =>
    rw [decodeStream_of_other hm magic, decoderStart_of_other hb within hs magic]
    exact .ended (ends_raiseDec ..)
  by_cases short : bs.length < 22
  · rw [decodeStream_of_short hm magic short, decoderStart_of_short hb within hs magic short]
    exact .ended (ends_raiseDec ..)
  · obtain ⟨w, h, ch, cs, rest, rfl⟩ := exists_header magic (by omega)
    have length : (encode (.header w h ch cs) ++ rest).length = 14 + rest.length := List.length_append
    exact started_of_header hb hs hm (by omega)

end

/-! ## The composed loop, a chunk at a time -/

/-- No bytes left, no pixels (R129). -/
theorem decodeLoop_nil (fuel : Nat) (prev : Pixel) (cache : Cache) : decodeLoop fuel [] prev cache = .ok [] := by
  rw [decodeLoop]

/-- Bytes that hold no chunk (R129). -/
theorem decodeLoop_truncated {bs : List Byte} (hne : bs ≠ []) (h : decodeChunk bs = .error .truncatedChunk) (fuel : Nat)
    (prev : Pixel) (cache : Cache) : decodeLoop (fuel + 1) bs prev cache = .error .truncatedChunk := by
  obtain ⟨t, tail, rfl⟩ := List.exists_cons_of_ne_nil hne
  simp only [decodeLoop, h]

/-- A chunk in front: its pixels, then the loop on the bytes after it, whatever that ends in (R129). -/
theorem decodeLoop_ok {bs rest : List Byte} {i : Instr} (h : decodeChunk bs = .ok (i, rest)) (fuel : Nat)
    (prev : Pixel) (cache : Cache) :
    decodeLoop (fuel + 1) bs prev cache =
      (decodeLoop fuel rest (lastPixel prev (chunkPixels prev cache i))
        ((chunkPixels prev cache i).foldl remember cache)).map (chunkPixels prev cache i ++ ·) := by
  obtain ⟨t, tail, row, rfl, -, -⟩ := decodeChunk_inv h
  simp only [decodeLoop, h]
  cases decodeLoop fuel rest _ _ <;> rfl

/-! ## The engine, a chunk at a time -/

/-- What a decode ends in, from the pixels decoded and the bytes left (R129). -/
def decodeRest (fuel : Nat) (bs : List Byte) (d : Decoder) : Decoded :=
  match decodeLoop fuel bs d.prev d.cache with
  | .error c => .fault .decodeError c
  | .ok ps =>
    if (d.out ++ ps).length ≠ area d.width d.height then .fault .pixelCountMismatch .none
    else .image ⟨d.width, d.height, d.channels, d.colorspace, d.out ++ ps⟩

/-- A chunk moves its pixels from what is left to what is decoded. -/
theorem decodeRest_chunkRead {bs rest : List Byte} {i : Instr} (h : decodeChunk bs = .ok (i, rest)) (fuel : Nat)
    (s : State) : decodeRest (fuel + 1) bs s.dec = decodeRest fuel rest (chunkRead i s).dec := by
  rw [decodeRest, decodeRest, decodeLoop_ok h]
  simp only [chunkRead]
  cases decodeLoop fuel rest _ _ with
  | error c => rfl
  | ok ps => simp only [Except.map, List.append_assoc]

/-- At the start of the scan all is left (R113, R129). -/
theorem decodeRest_beginScan (w h : Word) (ch cs : Byte) (body : List Byte) (s : State) :
    decodeRest body.length body (beginScan (latchHeader w h ch cs s)).dec = decodeBody w h ch cs body := rfl

/-- A scan with the bytes `bs` left, which nothing else moves before and which has raised nothing. -/
structure Scanning (bs : List Byte) (s : State) : Prop where
  agenda : s.agenda = []
  body   : s.dec.phase = .body
  sound  : s.dec.fault = .none
  count  : s.dec.npix = s.dec.out.length
  left   : BodyLeft bs s

/-- Within so many steps, one at least, the decode ends as R129 says, and the encoder is what it was. -/
def EndsWithin (d : Decoded) (bound : Nat) (s : State) : Prop :=
  ∃ n t, 1 ≤ n ∧ n ≤ bound ∧ Host.Core.run core n s = .next t ∧ Ends d t ∧ t.enc = s.enc

/-- By one step. -/
theorem EndsWithin.now {d : Decoded} {s t : State} (hstep : step s = .next t) (hd : Ends d t) (he : t.enc = s.enc)
    {bound : Nat} (hb : 1 ≤ bound) : EndsWithin d bound s :=
  ⟨1, t, le_rfl, hb, run_succ hstep 0, hd, he⟩

/-- By one step and those after it. -/
theorem EndsWithin.later {d : Decoded} {s u : State} (hstep : step s = .next u) (he : u.enc = s.enc) {bound bound' : Nat}
    (h : EndsWithin d bound u) (hb : bound + 1 ≤ bound') : EndsWithin d bound' s := by
  obtain ⟨n, t, _, hn, hrun, hd, henc⟩ := h
  exact ⟨n + 1, t, by omega, by omega, (run_succ hstep n).trans hrun, hd, henc.trans he⟩

/-- With no bytes left FINISH ends the decode (R127, R129). -/
theorem Scanning.ends_at_finish {s : State} (h : Scanning [] s) (fuel : Nat) :
    ∃ t, decoderFinish s = .next t ∧ Ends (decodeRest fuel [] s.dec) t ∧ t.enc = s.enc := by
  have rest : decodeRest fuel [] s.dec =
      if s.dec.npix ≠ area s.dec.width s.dec.height then .fault .pixelCountMismatch .none
      else .image (decodedImage s.dec) := by
    rw [decodeRest, decodeLoop_nil, h.count]
    simp only [List.append_nil, decodedImage]
  by_cases count : s.dec.npix = area s.dec.width s.dec.height
  · rw [rest, if_neg (not_not_intro count)]
    exact ⟨_, decoderFinish_of_match count, ⟨rfl, rfl, h.sound⟩, rfl⟩
  · rw [rest, if_pos count]
    exact ⟨_, decoderFinish_of_mismatch count, ends_raiseDec .., rfl⟩

/-- One step of the decode ends it as R129 says, or reads a chunk and leaves what R129 gives the same (R114, R129). -/
theorem Scanning.step_cases {bs : List Byte} {s : State} (h : Scanning bs s) {fuel : Nat} (hf : bs.length ≤ fuel) :
    (∃ t, step s = .next t ∧ Ends (decodeRest fuel bs s.dec) t ∧ t.enc = s.enc) ∨
    ∃ t rest fuel', step s = .next t ∧ Scanning rest t ∧ rest.length < bs.length ∧ rest.length ≤ fuel' ∧
      decodeRest fuel bs s.dec = decodeRest fuel' rest t.dec ∧ t.enc = s.enc := by
  have moves : step s = decoderStep s := (step_of_empty h.agenda).trans (if_pos h.body)
  rw [moves]
  rcases h.left.decoderStep_cases h.body with ⟨rfl, hstep⟩ | ⟨hne, hd, hstep⟩ | ⟨i, rest, hd, hstep, left⟩ <;>
    rw [hstep]
  · exact .inl (h.ends_at_finish fuel)
  · have pos := List.length_pos_of_ne_nil hne
    obtain ⟨fuel, rfl⟩ := Nat.exists_eq_add_of_le' (pos.trans_le hf : 1 ≤ _)
    rw [decodeRest, decodeLoop_truncated hne hd]
    exact .inl ⟨_, rfl, ends_raiseDec .., rfl⟩
  · obtain ⟨hp, length, -⟩ := decodeChunk_spec hd
    have pos := (chunk_length hp).1
    obtain ⟨fuel, rfl⟩ := Nat.exists_eq_add_of_le' (by omega : 1 ≤ fuel)
    have count : (chunkRead i s).dec.npix = (chunkRead i s).dec.out.length := by
      simp only [chunkRead, List.length_append, h.count]
    exact .inr ⟨_, rest, fuel, rfl, ⟨h.agenda, h.body, h.sound, count, left⟩, by omega, by omega,
      decodeRest_chunkRead hd fuel s, rfl⟩

/-- The rest of the decode: at most a step for each byte left, and FINISH (R125, R129). -/
theorem Scanning.endsWithin {bs : List Byte} {s : State} (h : Scanning bs s) {fuel : Nat} (hf : bs.length ≤ fuel) :
    EndsWithin (decodeRest fuel bs s.dec) (bs.length + 1) s := by
  rcases h.step_cases hf with ⟨t, hstep, hd, henc⟩ | ⟨t, rest, fuel', hstep, next, shorter, hf', same, henc⟩
  · exact .now hstep hd henc (Nat.le_add_left ..)
  · rw [same]
    exact .later hstep henc (next.endsWithin hf') (by omega)
termination_by bs.length

/-! ## The whole decode -/

/-- The start of the scan of a body (R113). -/
theorem scanning_beginScan {s : State} {w h : Word} {ch cs : Byte} {body : List Byte} (ha : s.agenda = [])
    (hf : s.dec.fault = .none) (hs : StreamIs s (encode (.header w h ch cs) ++ body ++ encode .endMark)) :
    Scanning body (beginScan s) :=
  ⟨ha, rfl, hf, rfl, bodyLeft_beginScan hs⟩

/-- What a step that is START does not refuse ends within a step for each byte of the body and two more (R125, R129). -/
theorem Started.endsWithin {s u : State} {bs : List Byte} {d : Decoded} (hstep : step u = decoderStart s)
    (henc : s.enc = u.enc) (ha : s.agenda = []) (hs : StreamIs s bs) (h : Started s bs (decoderStart s) d) :
    (∃ r, d = .refused r ∧ step u = .refused r) ∨ EndsWithin d (bs.length - 22 + 2) u := by
  generalize hr : decoderStart s = r at h
  rw [hr] at hstep
  cases h with
  | refused r => exact .inl ⟨r, rfl, hstep⟩
  | ended ends => exact .inr (.now hstep ends ((decoderStart_outside hr).enc.trans henc) (Nat.le_add_left ..))
  | @scanning w h ch cs body framed =>
    subst framed
    have scan := scanning_beginScan (s := latchHeader w h ch cs (clearDecFault s)) ha rfl
      (hs.clearDecFault.latchHeader w h ch cs)
    have rest := scan.endsWithin le_rfl
    rw [decodeRest_beginScan] at rest
    refine .inr (.later hstep henc rest ?_)
    rw [List.length_append, List.length_append, encode_length, encode_length]
    simp only [Instr.length, Config.headerLength, Config.endLength]
    omega

/-- Settles O57: START does as the composed checks say, or begins a scan that ends as the composed loop does. -/
theorem decoderComputesReference : Obligations.DecoderComputesReference := by
  intro s bs ha hb hs
  have started := started_of_stream (s := noAnswer { s with agenda := [] }) hb ⟨hs.length, hs.bytes⟩
  have ends := started.endsWithin (step_of_turn ha) rfl rfl ⟨hs.length, hs.bytes⟩
  rw [noAnswer_cfg] at ends
  dsimp only at ends
  generalize decodeStream s.cfg bs = d at ends ⊢
  cases d with
  | refused r =>
    rcases ends with ⟨_, same, refused⟩ | ⟨_, _, _, _, _, never, _⟩
    · cases same
      exact refused
    · exact never.elim
  | fault k c =>
    rcases ends with ⟨_, other, _⟩ | ⟨n, t, hl, hu, hrun, ⟨phase, fault, cause⟩, henc⟩
    · cases other
    · exact ⟨n, t, hl, hu, hrun, phase, fault, cause, henc⟩
  | image i =>
    rcases ends with ⟨_, other, _⟩ | ⟨n, t, hl, hu, hrun, ⟨done, image, fault⟩, henc⟩
    · cases other
    · exact ⟨n, t, hl, hu, hrun, done, image, fault, henc⟩

end Sys2Proof.Machine
end

section
/-! SUPPORT. The Image operations: slicing raw bytes into pixels and emitting pixels as bytes undo each other, and what
the two constructors and the accessor answer (R135 to R143). -/

namespace Sys2Proof.Machine

/-! ## The bytes of a pixel sequence -/

/-- A pixel has a byte for each channel (R140). -/
theorem pixelBytes_length {ch : Byte} (hc : ch = 3 ∨ ch = 4) (p : Pixel) : (pixelBytes ch p).length = ch.toNat := by
  rcases hc with rfl | rfl <;> rfl

/-- Pieces of one length n stand at the multiples of n. -/
theorem getElem?_flatMap_of_length {α β : Type} {f : α → List β} {n : Nat} (hf : ∀ a, (f a).length = n) {a : α}
    {j : Nat} (hj : j < n) {l : List α} {k : Nat} (hk : l[k]? = some a) : (l.flatMap f)[n * k + j]? = (f a)[j]? := by
  induction l generalizing k with
  | nil => cases hk
  | cons x xs ih =>
    cases k with
    | zero =>
      cases hk
      rw [List.flatMap_cons, Nat.mul_zero, Nat.zero_add, List.getElem?_append_left (hj.trans_eq (hf _).symm)]
    | succ k =>
      have past : n * (k + 1) + j = (f x).length + (n * k + j) := by rw [hf, Nat.mul_succ]; omega
      rw [List.flatMap_cons, past, List.getElem?_append_right (Nat.le_add_right ..), Nat.add_sub_cancel_left, ih hk]

/-- The bytes of pixel k stand in `bs` from `ch` times k on: r, g, b and, for 4 channels, a (R136, R140). -/
structure PixelAt (ch : Byte) (bs : List Byte) (k : Nat) (p : Pixel) : Prop where
  r : bs[ch.toNat * k]? = some p.r
  g : bs[ch.toNat * k + 1]? = some p.g
  b : bs[ch.toNat * k + 2]? = some p.b
  a : ch = 4 → bs[ch.toNat * k + 3]? = some p.a

/-- Each pixel's bytes stand at its place among the bytes of the sequence (R140). -/
theorem pixelAt_flatMap {ch : Byte} (hc : ch = 3 ∨ ch = 4) {ps : List Pixel} {k : Nat} {p : Pixel}
    (hp : ps[k]? = some p) : PixelAt ch (ps.flatMap (pixelBytes ch)) k p := by
  have byte : ∀ j < ch.toNat, (ps.flatMap (pixelBytes ch))[ch.toNat * k + j]? = (pixelBytes ch p)[j]? :=
    fun j hj => getElem?_flatMap_of_length (pixelBytes_length hc) hj hp
  rcases hc with rfl | rfl
  · exact ⟨byte 0 (by decide), byte 1 (by decide), byte 2 (by decide), fun h => absurd h (by decide)⟩
  · exact ⟨byte 0 (by decide), byte 1 (by decide), byte 2 (by decide), fun _ => byte 3 (by decide)⟩

/-- The sequence has a byte for each channel of each pixel (R140). -/
theorem length_flatMap_pixelBytes {ch : Byte} (hc : ch = 3 ∨ ch = 4) (ps : List Pixel) :
    (ps.flatMap (pixelBytes ch)).length = ch.toNat * ps.length := by
  simp [List.length_flatMap, pixelBytes_length hc, Nat.mul_comm]

/-! ## Slicing raw bytes -/

/-- Whole groups of three bytes are the bytes of their slices. -/
theorem flatMap_slice3 : ∀ raw : List Byte, raw.length % 3 = 0 → (slice3 raw).flatMap (pixelBytes 3) = raw
  | [], _ => rfl
  | r :: g :: b :: rest, h => by
    have whole : rest.length % 3 = 0 := (Nat.add_mod_right ..).symm.trans h
    rw [slice3, List.flatMap_cons, flatMap_slice3 rest whole]
    rfl

/-- Whole groups of four bytes are the bytes of their slices. -/
theorem flatMap_slice4 : ∀ raw : List Byte, raw.length % 4 = 0 → (slice4 raw).flatMap (pixelBytes 4) = raw
  | [], _ => rfl
  | r :: g :: b :: a :: rest, h => by
    have whole : rest.length % 4 = 0 := (Nat.add_mod_right ..).symm.trans h
    rw [slice4, List.flatMap_cons, flatMap_slice4 rest whole]
    rfl

/-- Raw bytes of whole pixels are the bytes of the pixels they are sliced into (R143). -/
theorem flatMap_slicePixels {ch : Byte} (hc : ch = 3 ∨ ch = 4) {raw : List Byte} (hr : raw.length % ch.toNat = 0) :
    (slicePixels ch raw).flatMap (pixelBytes ch) = raw := by
  rcases hc with rfl | rfl
  · exact flatMap_slice3 raw hr
  · exact flatMap_slice4 raw hr

/-- They are sliced into a pixel for each group of `ch` bytes (R136). -/
theorem slicePixels_length {ch : Byte} (hc : ch = 3 ∨ ch = 4) {raw : List Byte} (hr : raw.length % ch.toNat = 0) :
    (slicePixels ch raw).length = raw.length / ch.toNat := by
  have bytes := length_flatMap_pixelBytes hc (slicePixels ch raw)
  rw [flatMap_slicePixels hc hr] at bytes
  have channels : 0 < ch.toNat := by rcases hc with rfl | rfl <;> decide
  rw [bytes, Nat.mul_div_cancel_left _ channels]

/-- The pixel sliced at k is made of the bytes of its place (R136). -/
theorem pixelAt_of_slicePixels {ch : Byte} (hc : ch = 3 ∨ ch = 4) {raw : List Byte} (hr : raw.length % ch.toNat = 0)
    {k : Nat} {p : Pixel} (hp : (slicePixels ch raw)[k]? = some p) : PixelAt ch raw k p := by
  have here := pixelAt_flatMap hc hp
  rwa [flatMap_slicePixels hc hr] at here

/-- A pixel of three raw bytes is opaque (R136). -/
theorem alpha_of_mem_slice3 {raw : List Byte} {p : Pixel} (hp : p ∈ slice3 raw) : p.a = 255 := by
  fun_induction slice3 raw with
  | case1 r g b rest ih =>
    rcases List.mem_cons.1 hp with rfl | hp
    · rfl
    · exact ih hp
  | case2 => cases hp

/-! ## The constructors -/

/-- A count other than width×height raises PIXEL_COUNT_MISMATCH (R136, R138). -/
theorem construct_of_mismatch {ps : List Pixel} {w h : Word} (hn : ps.length ≠ w.toNat * h.toNat) (ch cs : Byte)
    (s : State) : construct ps w h ch cs s = .next (raiseImg .pixelCountMismatch s) :=
  if_pos hn

/-- A count of width×height gives the Image (R136, R138). -/
theorem construct_of_count {ps : List Pixel} {w h : Word} (hn : ps.length = w.toNat * h.toNat) (ch cs : Byte)
    (s : State) : construct ps w h ch cs s = .next (giveImage ⟨w, h, ch, cs, ps⟩ s) :=
  if_neg (not_not.2 hn)

/-- Of an illegal format no Image is constructed (R136). -/
theorem imageFromRaw_of_illegal {ch cs : Byte} (hf : ¬ ((ch = 3 ∨ ch = 4) ∧ (cs = 0 ∨ cs = 1))) (raw : List Byte)
    (w h : Word) (s : State) : imageFromRaw raw w h ch cs s = .refused .imageFormat :=
  if_pos (Bool.eq_false_iff.2 (mt (legalFormat_iff ch cs).1 hf))

/-- Of an illegal format no Image is constructed (R138). -/
theorem imageFromPixels_of_illegal {ch cs : Byte} (hf : ¬ ((ch = 3 ∨ ch = 4) ∧ (cs = 0 ∨ cs = 1)))
    (ps : List Pixel) (w h : Word) (s : State) : imageFromPixels ps w h ch cs s = .refused .imageFormat :=
  if_pos (Bool.eq_false_iff.2 (mt (legalFormat_iff ch cs).1 hf))

section
variable {ch cs : Byte} (hf : legalFormat ch cs = true)
include hf

/-- The constructor from pixels checks the count only (R138). -/
theorem imageFromPixels_of_legal (ps : List Pixel) (w h : Word) (s : State) :
    imageFromPixels ps w h ch cs s = construct ps w h ch cs s :=
  if_neg (ne_false_of_eq_true hf)

/-- Raw bytes that are not whole pixels raise MALFORMED_LENGTH, whatever the count (R136). -/
theorem imageFromRaw_of_malformed {raw : List Byte} (hr : raw.length % ch.toNat ≠ 0) (w h : Word) (s : State) :
    imageFromRaw raw w h ch cs s = .next (raiseImg .malformedLength s) := by
  rw [imageFromRaw, if_neg (ne_false_of_eq_true hf), if_pos hr]

/-- Raw bytes of whole pixels are sliced, and then only the count is checked (R136). -/
theorem imageFromRaw_of_whole {raw : List Byte} (hr : raw.length % ch.toNat = 0) (w h : Word) (s : State) :
    imageFromRaw raw w h ch cs s = construct (slicePixels ch raw) w h ch cs s := by
  rw [imageFromRaw, if_neg (ne_false_of_eq_true hf), if_neg (not_not.2 hr)]

end

/-- Settles O46: the format by `legalFormat_iff`, then the count. -/
theorem imageFromPixelSequence : Obligations.ImageFromPixelSequence := by
  refine fun s ps w h ch cs => ⟨fun illegal => imageFromPixels_of_illegal illegal ps w h s, fun hc hs => ?_⟩
  have checked := imageFromPixels_of_legal ((legalFormat_iff ch cs).2 ⟨hc, hs⟩) ps w h s
  exact ⟨fun other => checked.trans (construct_of_mismatch other ch cs s),
    fun equal => checked.trans (construct_of_count equal ch cs s)⟩

/-- Settles O45: whole pixels are sliced into the pixels whose bytes they are, as many as the count asks for. -/
theorem imageFromRawBytes : Obligations.ImageFromRawBytes := by
  refine fun s raw w h ch cs => ⟨fun illegal => imageFromRaw_of_illegal illegal raw w h s, fun hc hs => ?_⟩
  have legal := (legalFormat_iff ch cs).2 ⟨hc, hs⟩
  refine ⟨fun ragged => imageFromRaw_of_malformed legal ragged w h s, fun whole other => ?_, fun whole equal => ?_⟩
  · rw [← slicePixels_length hc whole] at other
    exact (imageFromRaw_of_whole legal whole w h s).trans (construct_of_mismatch other ch cs s)
  · rw [← slicePixels_length hc whole] at equal
    refine ⟨slicePixels ch raw, (imageFromRaw_of_whole legal whole w h s).trans (construct_of_count equal ch cs s),
      equal, fun k p hp => ?_⟩
    obtain ⟨r, g, b, a⟩ := pixelAt_of_slicePixels hc whole hp
    refine ⟨r, g, b, a, fun three => ?_⟩
    subst three
    exact alpha_of_mem_slice3 (List.mem_of_getElem? hp)

/-! ## The accessor -/

/-- The Image a construction from raw bytes answers has a legal format and the asked count of the sliced pixels, and the
raw bytes are whole pixels (R136). -/
theorem imageFromRaw_eq_image {raw : List Byte} {w h : Word} {ch cs : Byte} {s t : State} {i : Image}
    (ht : imageFromRaw raw w h ch cs s = .next t) (hi : t.reply = some (.image i)) :
    (ch = 3 ∨ ch = 4) ∧ raw.length % ch.toNat = 0 ∧ (slicePixels ch raw).length = w.toNat * h.toNat ∧
      i = ⟨w, h, ch, cs, slicePixels ch raw⟩ := by
  by_cases legal : (ch = 3 ∨ ch = 4) ∧ (cs = 0 ∨ cs = 1)
  case neg => cases (imageFromRaw_of_illegal legal raw w h s).symm.trans ht
  have hf := (legalFormat_iff ch cs).2 legal
  by_cases whole : raw.length % ch.toNat = 0
  case neg =>
    cases (imageFromRaw_of_malformed hf whole w h s).symm.trans ht
    cases hi
  rw [imageFromRaw_of_whole hf whole] at ht
  by_cases equal : (slicePixels ch raw).length = w.toNat * h.toNat
  case neg =>
    cases (construct_of_mismatch equal ch cs s).symm.trans ht
    cases hi
  cases (construct_of_count equal ch cs s).symm.trans ht
  cases hi
  exact ⟨legal.1, whole, equal, rfl⟩

/-- Of an Image of 3 or 4 channels the accessor answers the bytes (R140). -/
theorem imageToBytes_of_image {i : Image} (hc : i.channels = 3 ∨ i.channels = 4)
    (hn : i.pixels.length = i.width.toNat * i.height.toNat) (s : State) :
    imageToBytes i s = .next (answer (.bytes (toBytes i)) s) := by
  have legal : legalChannels i.channels = true := by simpa [legalChannels] using hc
  have wf : i.wf = true := decide_eq_true hn
  rw [imageToBytes, if_neg (ne_false_of_eq_true legal), if_neg (ne_false_of_eq_true wf)]

/-- Settles O47: the accessor answers the bytes of the pixels, which are the raw bytes the pixels were sliced from. -/
theorem accessorEmitsChannelsAndInvertsFromRaw : Obligations.AccessorEmitsChannelsAndInvertsFromRaw := by
  refine ⟨fun s i hc hn => ⟨toBytes i, imageToBytes_of_image hc hn s, length_flatMap_pixelBytes hc i.pixels,
    fun k p hp => ?_⟩, fun s t raw w h ch cs i ht hi => ?_⟩
  · obtain ⟨r, g, b, a⟩ := pixelAt_flatMap hc hp
    exact ⟨r, g, b, a⟩
  · obtain ⟨hc, whole, equal, rfl⟩ := imageFromRaw_eq_image ht hi
    have bytes : toBytes ⟨w, h, ch, cs, slicePixels ch raw⟩ = raw := flatMap_slicePixels hc whole
    have accessed := imageToBytes_of_image (i := ⟨w, h, ch, cs, slicePixels ch raw⟩) hc equal t
    rw [bytes] at accessed
    exact accessed

end Sys2Proof.Machine
end

section
/-! SUPPORT. MALFORMED_TAG is in no step's power to set: what each engine and each host request can leave as DEC.CAUSE
(60_exceptions.md R148). -/

namespace Sys2Proof.Machine

/-- A chunk leaves the fault registers alone (R117). -/
theorem control_of_exec_chunk {i : Instr} {s t : State} (hp : i.place = .body) (h : exec i s = .next t) :
    SameControl s t := by
  cases (exec_eq_chunkRead hp s).symm.trans h
  exact (chunkRead_frame i s).control

/-- A decoder step does not set the cause: of its two DecodeErrors only the truncated chunk is raised (R124, R148). -/
theorem decoderStep_malformedTag {s t : State} (h : decoderStep s = .next t) (hc : t.dec.cause = .malformedTag) :
    s.dec.cause = .malformedTag := by
  rcases decoderStep_inv h with
    ⟨_, rfl⟩ | ⟨_, ⟨i, hi, he⟩ | ⟨hm, _⟩ | ⟨_, rfl⟩ | ⟨_, _, rfl⟩ | ⟨_, _, rfl⟩⟩
  · exact hc
  · exact (control_of_exec_chunk (fetch_unit hi).1 he).cause.symm.trans hc
  · exact absurd hm (fetch_ne_malformed s.dec)
  · cases hc
  · cases hc
  · exact hc

/-- START clears the cause, and its checks raise others (R111, R151). -/
theorem decoderStart_ne_malformedTag {s t : State} (h : decoderStart s = .next t) : t.dec.cause ≠ .malformedTag := by
  rcases (decoderStart_inv h).2 with rfl | rfl | ⟨w, hh, ch, cs, rfl | rfl | ⟨rfl, _⟩⟩ <;> exact nofun

/-- No host request sets it: those that are no decoder START leave the cause alone. -/
theorem serve_malformedTag {r : Request} {s t : State} (h : serve r s = .next t) (hc : t.dec.cause = .malformedTag) :
    s.dec.cause = .malformedTag := by
  rcases serve_inv h with hd | he | ⟨_, _, _, _, _, rfl⟩ | ⟨_, _, _, _, rfl⟩ | ⟨_, _, _, rfl⟩
  · exact absurd hc (decoderStart_ne_malformedTag hd)
  · rwa [(encoderStart_outside he).dec] at hc
  all_goals exact hc

/-- Settles O11: every byte has a row, so no fetch finds the tag malformed, and no move of any agent sets the cause. -/
theorem malformedTagIsUnreachable : Obligations.MalformedTagIsUnreachable := by
  refine ⟨rowOf_ne_none, fetch_ne_malformed, fun s t h hc => ?_⟩
  rw [← popTurn_dec s]
  rcases step_inv h with ⟨r, hr⟩ | he | hd
  · exact serve_malformedTag hr hc
  · rwa [(encoderStep_frame he).1.dec] at hc
  · exact decoderStep_malformedTag hd hc

end Sys2Proof.Machine
end

section
/-! SUPPORT. HEADER by the test that decides, the policy before the size, and the refusals of decoder START
(60_exceptions.md R150, R158, R159; log 8, log 21). -/

namespace Sys2Proof.Machine

/-! ## HEADER -/

section
variable {w h : Word} {ch cs : Byte} {s : State}

/-- A format R150 does not stop, legal or passed through, leaves the size to decide (R159). -/
theorem execHeader_of_admitted (hf : legalFormat ch cs = true ∨ s.cfg.badFmtPolicy = .pass) :
    execHeader w h ch cs s = checkHeaderArea (latchHeader w h ch cs s) := by
  by_cases legal : legalFormat ch cs = true
  · exact if_pos legal
  · rw [execHeader, if_neg legal, hf.resolve_left legal]

/-- An illegal format under `refuse` (R150). -/
theorem execHeader_of_refuse (hf : legalFormat ch cs = false) (hp : s.cfg.badFmtPolicy = .refuse) :
    execHeader w h ch cs s = .refused .headerFormat := by
  rw [execHeader, if_neg (ne_true_of_eq_false hf), hp]

/-- An illegal format under `header_error` (R150). -/
theorem execHeader_of_headerError (hf : legalFormat ch cs = false) (hp : s.cfg.badFmtPolicy = .headerError) :
    execHeader w h ch cs s = .next (raiseDec .headerError .none (latchHeader w h ch cs s)) := by
  rw [execHeader, if_neg (ne_true_of_eq_false hf), hp]

/-- A product above MAX_PIXELS is refused (R159). -/
theorem checkHeaderArea_of_large (hx : ∃ m, s.cfg.maxPixels = some m ∧ m < area s.dec.width s.dec.height) :
    checkHeaderArea s = .refused .tooManyPixels :=
  if_pos (exceeds_eq_true hx)

/-- A product within MAX_PIXELS, or with none set, is not (R159). -/
theorem checkHeaderArea_of_fits (hm : ∀ m, s.cfg.maxPixels = some m → area s.dec.width s.dec.height ≤ m) :
    checkHeaderArea s = .next s :=
  if_neg (ne_true_of_eq_false (exceeds_eq_false hm))

/-- A HEADER that R150 lets through is refused above MAX_PIXELS (R159). -/
theorem execHeader_of_large (hf : legalFormat ch cs = true ∨ s.cfg.badFmtPolicy = .pass)
    (hx : ∃ m, s.cfg.maxPixels = some m ∧ m < area w h) : execHeader w h ch cs s = .refused .tooManyPixels :=
  (execHeader_of_admitted hf).trans (checkHeaderArea_of_large hx)

/-- HEADER is refused for its size only where MAX_PIXELS is set (R159). -/
theorem execHeader_of_unbounded (hm : s.cfg.maxPixels = none) : execHeader w h ch cs s ≠ .refused .tooManyPixels := by
  have unbounded : ∀ m, s.cfg.maxPixels = some m → area w h ≤ m := fun m h => nomatch hm.symm.trans h
  by_cases admitted : legalFormat ch cs = true ∨ s.cfg.badFmtPolicy = .pass
  · rw [execHeader_of_admitted admitted, checkHeaderArea_of_fits (s := latchHeader w h ch cs s) unbounded]
    exact nofun
  obtain ⟨illegal, stops⟩ := not_or.1 admitted
  rw [Bool.not_eq_true] at illegal
  cases policy : s.cfg.badFmtPolicy with
  | refuse => rw [execHeader_of_refuse illegal policy]; exact nofun
  | headerError => rw [execHeader_of_headerError illegal policy]; exact nofun
  | pass => exact absurd policy stops

end

/-- A format out of range is none of the legal ones (R23). -/
theorem legalFormat_eq_false {ch cs : Byte} (hf : ¬ ((ch = 3 ∨ ch = 4) ∧ (cs = 0 ∨ cs = 1))) :
    legalFormat ch cs = false :=
  Bool.eq_false_iff.2 (mt (legalFormat_iff ch cs).1 hf)

/-- Settles O20: HEADER by its policy, and a chunk leaves `chunkRead`, of which the two bytes are no part. -/
theorem headerFormatPolicy : Obligations.HeaderFormatPolicy := by
  refine ⟨rfl, fun w h ch cs s hf => ⟨fun policy => ?_, fun policy => ?_, fun policy fits => ?_⟩,
    fun i s ch cs hp => ?_⟩
  · exact execHeader_of_refuse (legalFormat_eq_false hf) policy
  · exact ⟨_, execHeader_of_headerError (legalFormat_eq_false hf) policy, rfl, rfl, rfl,
      ⟨rfl, rfl, rfl, rfl, rfl, rfl⟩, ⟨fun _ => rfl, rfl⟩, ⟨rfl, rfl, rfl, rfl, rfl⟩, rfl⟩
  · exact ⟨_, (execHeader_of_admitted (.inr policy)).trans (checkHeaderArea_of_fits fits), rfl, rfl, rfl, rfl,
      ⟨rfl, rfl, rfl, rfl, rfl, rfl⟩, ⟨fun _ => rfl, rfl⟩, ⟨rfl, rfl, rfl, rfl⟩, ⟨rfl, rfl, rfl, rfl, rfl⟩⟩
  · rw [exec_eq_chunkRead hp, exec_eq_chunkRead hp]
    rfl

/-! ## Encoder START -/

/-- An append is refused for the stream's length only (log 10). -/
theorem emit_ne_tooManyPixels (bs : List Byte) (s : State) : emit bs s ≠ .refused .tooManyPixels := by
  unfold emit
  split <;> exact nofun

/-- Encoder START is refused for the size only where MAX_PIXELS is set (R159). -/
theorem encoderStart_of_unbounded {s : State} (hm : s.cfg.maxPixels = none) :
    encoderStart s ≠ .refused .tooManyPixels := by
  by_cases hb : s.enc.phase = .body
  · rw [encoderStart_in_body hb]; exact nofun
  by_cases hf : legalFormat (fmtChannels s.enc.fmtReg) (fmtColorspace s.enc.fmtReg) = true
  case neg => rw [encoderStart_of_format hb (Bool.eq_false_iff.2 hf)]; exact nofun
  by_cases hl : s.enc.pix.length = area s.enc.widthReg s.enc.heightReg
  case neg => rw [encoderStart_of_count hb hf hl]; exact nofun
  rw [encoderStart_of_admitted hb hf hl fun m h => nomatch hm.symm.trans h]
  exact emit_ne_tooManyPixels _ _

/-- Settles O21: set and exceeded, the size refuses HEADER and encoder START; not set, neither. -/
theorem oversizeImagesAreRefused : Obligations.OversizeImagesAreRefused := by
  refine ⟨fun w h ch cs s m hm hx admitted => ?_, fun s m hm hx hb hf hl => ?_, rfl, fun s hm => ⟨?_, ?_⟩⟩
  · exact execHeader_of_large admitted ⟨m, hm, hx⟩
  · exact encoderStart_of_area (s := noAnswer s) hb hf hl ⟨m, hm, hl.symm ▸ hx⟩
  · exact fun _ _ _ _ => execHeader_of_unbounded hm
  · exact encoderStart_of_unbounded (s := noAnswer s) hm

/-! ## Decoder START -/

/-- START is not admitted in BODY (R158). -/
theorem decoderStart_in_body {s : State} (hb : s.dec.phase = .body) : decoderStart s = .refused .startDuringBody :=
  if_pos hb

/-- A stream longer than MAX_STREAM is refused before it is read (R158; log 21). -/
theorem decoderStart_of_long {s : State} (hb : s.dec.phase ≠ .body)
    (hm : ∃ m, s.cfg.maxStream = some m ∧ m < s.dec.inLen) : decoderStart s = .refused .streamTooLong := by
  rw [decoderStart, if_neg hb, if_pos (exceeds_eq_true hm)]

/-- Settles O28: in BODY and above MAX_STREAM nothing is read; behind a header, its refusal is START's. -/
theorem decoderStartRefusals : Obligations.DecoderStartRefusals := by
  refine fun s => ⟨fun hb => ?_, fun hb hm => ?_, fun w h ch cs rest hs hr hb hm => ?_⟩
  · exact decoderStart_in_body (s := noAnswer s) hb
  · exact decoderStart_of_long (s := noAnswer s) hb hm
  · have start := decoderStart_of_header (s := noAnswer s) hb hm hs.noAnswer hr
    refine ⟨fun illegal policy => ?_, fun legal large => ?_⟩
    · rw [serve_decoderStart, start, execHeader_of_refuse (s := clearDecFault (noAnswer s)) illegal policy, andThen]
    · rw [serve_decoderStart, start, execHeader_of_large (s := clearDecFault (noAnswer s)) (.inl legal) large, andThen]

end Sys2Proof.Machine
end

section
/-! SUPPORT. Entering FAULT: a decoder step and an Image constructor raise, and do nothing else (60_exceptions.md R152,
44_image_interface.md R137). -/

namespace Sys2Proof.Machine

/-- A decoder step from BODY into FAULT has raised a fault on the state before it (R152): a chunk stays in BODY, and
FINISH without a fault enters DONE. -/
theorem decoderStep_raises {s t : State} (hb : s.dec.phase = .body) (h : decoderStep s = .next t)
    (hf : t.dec.phase = .fault) : ∃ k c, k ≠ .none ∧ t = raiseDec k c s := by
  rcases decoderStep_inv h with
    ⟨idle, _⟩ | ⟨_, ⟨i, hi, he⟩ | ⟨hm, _⟩ | ⟨_, rfl⟩ | ⟨_, _, rfl⟩ | ⟨_, _, rfl⟩⟩
  · exact absurd hb idle
  · have stays := (control_of_exec_chunk (fetch_unit hi).1 he).phase
    cases hf.symm.trans (stays.trans hb)
  · exact absurd hm (fetch_ne_malformed s.dec)
  · exact ⟨.decodeError, _, nofun, rfl⟩
  · exact ⟨.pixelCountMismatch, _, nofun, rfl⟩
  · cases hf

/-- Outside BODY no decoder step is enabled (R169). -/
theorem decoderStep_of_not_body {s : State} (hb : s.dec.phase ≠ .body) : decoderStep s = .next s := if_neg hb

/-- What a construction leaves: a fault raised, or the Image given with IMG.FAULT cleared (R137). -/
inductive Constructed (s : State) : State → Prop
  | raised (k : FaultKind) : Constructed s (raiseImg k s)
  | given (i : Image) : Constructed s (giveImage i s)

/-- The count check leaves one of the two (R136, R138). -/
theorem construct_constructed {ps : List Pixel} {w h : Word} {ch cs : Byte} {s t : State}
    (ht : construct ps w h ch cs s = .next t) : Constructed s t := by
  by_cases count : ps.length = w.toNat * h.toNat
  · cases (construct_of_count count ch cs s).symm.trans ht
    exact .given _
  · cases (construct_of_mismatch count ch cs s).symm.trans ht
    exact .raised _

/-- The constructor from pixels does (R138). -/
theorem imageFromPixels_constructed {ps : List Pixel} {w h : Word} {ch cs : Byte} {s t : State}
    (ht : imageFromPixels ps w h ch cs s = .next t) : Constructed s t := by
  by_cases legal : legalFormat ch cs = true
  · exact construct_constructed ((imageFromPixels_of_legal legal ps w h s).symm.trans ht)
  · cases (imageFromPixels_of_illegal (mt (legalFormat_iff ch cs).2 legal) ps w h s).symm.trans ht

/-- The constructor from raw bytes does (R136). -/
theorem imageFromRaw_constructed {raw : List Byte} {w h : Word} {ch cs : Byte} {s t : State}
    (ht : imageFromRaw raw w h ch cs s = .next t) : Constructed s t := by
  by_cases legal : legalFormat ch cs = true
  case neg => cases (imageFromRaw_of_illegal (mt (legalFormat_iff ch cs).2 legal) raw w h s).symm.trans ht
  by_cases whole : raw.length % ch.toNat = 0
  · exact construct_constructed ((imageFromRaw_of_whole legal whole w h s).symm.trans ht)
  · cases (imageFromRaw_of_malformed legal whole w h s).symm.trans ht
    exact .raised _

/-- Settles O29: what enters FAULT has raised, in the decoder or the Image unit, and raising writes the fault only. -/
theorem faultEntrySetsNothingElse : Obligations.FaultEntrySetsNothingElse := by
  refine ⟨fun s t hb h hf => ?_, fun s hf => ?_, fun s t raw ps w h ch cs ht hf => ?_⟩
  · obtain ⟨k, c, hk, rfl⟩ := decoderStep_raises hb h hf
    exact ⟨rfl, hk⟩
  · exact decoderStep_of_not_body (by rw [hf]; exact nofun)
  · cases ht.elim imageFromRaw_constructed imageFromPixels_constructed with
    | raised k => rfl
    | given i => exact absurd rfl hf

end Sys2Proof.Machine
end

section
/-! SUPPORT. START forgets the past: its checks read the parameters, DEC.IN and DEC_INLEN only, and what begins an
operation overwrites the rest (70_reset_and_hazards.md R166, 60_exceptions.md R153). -/

namespace Sys2Proof.Machine

/-! ## Decoder START -/

/-- How two STARTs end alike: stopped for the same reason, with the same fault and cause raised, or with the scan begun
by equal decoders (R111). -/
inductive StartedAlike : Result → Result → Prop
  | fault (f : Fault) : StartedAlike (.fault f) (.fault f)
  | refused (r : Refusal) : StartedAlike (.refused r) (.refused r)
  | raised (k : FaultKind) (c : Cause) (s s' : State) :
      StartedAlike (.next (raiseDec k c s)) (.next (raiseDec k c s'))
  | scanning {s s' : State} (same : (beginScan s').dec = (beginScan s).dec) :
      StartedAlike (.next (beginScan s)) (.next (beginScan s'))

/-- Two STARTs that make the same test end alike if they do so on either side of it. -/
theorem StartedAlike.ite {c : Prop} [Decidable c] {a a' b b' : Result} (ha : c → StartedAlike a a')
    (hb : ¬ c → StartedAlike b b') : StartedAlike (if c then a else b) (if c then a' else b') := by
  by_cases h : c
  · rw [if_pos h, if_pos h]; exact ha h
  · rw [if_neg h, if_neg h]; exact hb h

/-- MemRead depends on DEC.IN and DEC_INLEN only (R32). -/
theorem memRead_congr {d d' : Decoder} (hi : d'.inp = d.inp) (hl : d'.inLen = d.inLen) (a n : Nat) :
    memRead d' a n = memRead d a n := by
  rw [memRead, memRead, hi, hl]

/-- Check 4 is not made once check 3 has raised (R112). -/
theorem startCheckEnd_raiseDec {k : FaultKind} (hk : k ≠ .none) (c : Cause) (s : State) :
    startCheckEnd (raiseDec k c s) = .next (raiseDec k c s) :=
  if_pos hk

section
variable {s s' : State} (hi : s'.dec.inp = s.dec.inp) (hl : s'.dec.inLen = s.dec.inLen)
include hi hl

/-- The scan begins alike: its decoder is the stream, the header's fields and initial values (R111, R113). -/
theorem beginScan_forgets (w h : Word) (ch cs : Byte) :
    (beginScan (latchHeader w h ch cs (clearDecFault s'))).dec =
      (beginScan (latchHeader w h ch cs (clearDecFault s))).dec := by
  simp only [beginScan, latchHeader, clearDecFault, hi, hl]

/-- Check 4 reads the stream only (R112). -/
theorem startCheckEnd_forgets (w h : Word) (ch cs : Byte) :
    StartedAlike (startCheckEnd (latchHeader w h ch cs (clearDecFault s)))
      (startCheckEnd (latchHeader w h ch cs (clearDecFault s'))) := by
  have read := memRead_congr (d := (latchHeader w h ch cs (clearDecFault s)).dec)
    (d' := (latchHeader w h ch cs (clearDecFault s')).dec) hi hl
  simp only [startCheckEnd, latchHeader_dec_fault, clearDecFault_dec_fault, latchHeader_dec_inLen,
    clearDecFault_dec_inLen, hl, read]
  refine .ite (absurd rfl) fun _ => ?_
  cases memRead (latchHeader w h ch cs (clearDecFault s)).dec (s.dec.inLen - Config.endLength) Config.endLength with
  | error f => exact .fault f
  | ok bs =>
    dsimp only
    cases hd : decode .tail bs with
    | error r => exact .raised ..
    | ok unit =>
      obtain ⟨i, rest⟩ := unit
      obtain rfl := decodeEnd_inv hd
      exact .scanning (beginScan_forgets hi hl w h ch cs)

variable (hc : s'.cfg = s.cfg)
include hc

/-- HEADER, and check 4 after it, depend on the parameters and the stream only (R112, R150, R159): `decodeFields`
decides which way HEADER goes, so the two machines go the same way. -/
theorem execHeader_forgets (w h : Word) (ch cs : Byte) :
    StartedAlike (andThen (execHeader w h ch cs (clearDecFault s)) startCheckEnd)
      (andThen (execHeader w h ch cs (clearDecFault s')) startCheckEnd) := by
  have policy : decodeFields (clearDecFault s').cfg w h ch cs = decodeFields (clearDecFault s).cfg w h ch cs := by
    rw [clearDecFault_cfg, clearDecFault_cfg, hc]
  rcases execHeader_cases w h ch cs (clearDecFault s) with ⟨hd, he⟩ | ⟨r, hd, he⟩ | ⟨hd, he⟩ <;>
    rcases execHeader_cases w h ch cs (clearDecFault s') with ⟨hd', he'⟩ | ⟨r', hd', he'⟩ | ⟨hd', he'⟩ <;>
    cases hd'.symm.trans (policy.trans hd) <;> rw [he, he']
  · exact startCheckEnd_forgets hi hl w h ch cs
  · exact .refused r
  · rw [andThen, andThen, startCheckEnd_raiseDec (k := .headerError) nofun,
      startCheckEnd_raiseDec (k := .headerError) nofun]
    exact .raised ..

/-- Checks 2 to 4 do (R112). -/
theorem startCheckHeader_forgets :
    StartedAlike (startCheckHeader (clearDecFault s)) (startCheckHeader (clearDecFault s')) := by
  have read := memRead_congr (d := (clearDecFault s).dec) (d' := (clearDecFault s').dec) hi hl
  simp only [startCheckHeader, clearDecFault_dec_inLen, hl, read]
  refine .ite (fun _ => .raised ..) fun _ => ?_
  cases memRead (clearDecFault s).dec 0 Config.headerLength with
  | error f => exact .fault f
  | ok bs =>
    dsimp only
    cases hd : decode .head bs with
    | error r => exact .raised ..
    | ok unit =>
      obtain ⟨i, rest⟩ := unit
      obtain ⟨w, h, ch, cs, rfl⟩ := decodeHeader_inv hd
      exact execHeader_forgets hi hl hc w h ch cs

/-- All four checks do (R112). -/
theorem startCheckMagic_forgets :
    StartedAlike (startCheckMagic (clearDecFault s)) (startCheckMagic (clearDecFault s')) := by
  have read := memRead_congr (d := (clearDecFault s).dec) (d' := (clearDecFault s').dec) hi hl
  simp only [startCheckMagic, clearDecFault_dec_inLen, hl, read]
  refine .ite (fun _ => .raised ..) fun _ => ?_
  cases memRead (clearDecFault s).dec 0 4 with
  | error f => exact .fault f
  | ok bs => exact .ite (fun _ => startCheckHeader_forgets hi hl hc) fun _ => .raised ..

/-- START outside BODY does, its refusals among them (R111, R153, R166). -/
theorem decoderStart_forgets (hb : s.dec.phase ≠ .body) (hb' : s'.dec.phase ≠ .body) :
    StartedAlike (decoderStart s) (decoderStart s') := by
  rw [decoderStart, decoderStart, if_neg hb, if_neg hb', hc, hl]
  exact .ite (fun _ => .refused _) fun _ => startCheckMagic_forgets hi hl hc

end

/-- Two STARTs that end alike leave the same phase, fault and cause, and in BODY the same decoder. -/
theorem StartedAlike.sameEnd {t t' : State} (h : StartedAlike (.next t) (.next t')) :
    t'.dec.phase = t.dec.phase ∧ t'.dec.fault = t.dec.fault ∧ t'.dec.cause = t.dec.cause ∧
      (t.dec.phase = .body → t'.dec = t.dec) := by
  cases h with
  | raised k c s s' => exact ⟨rfl, rfl, rfl, nofun⟩
  | scanning same => rw [same]; exact ⟨rfl, rfl, rfl, fun _ => rfl⟩

/-! ## Encoder START -/

/-- An encoder START that ends leaves the header written (R91). -/
theorem encoderStart_leaves {s t : State} (h : encoderStart s = .next t) : t = headerWritten s := by
  obtain ⟨_, _, _, _, he⟩ := encoderStart_inv h
  exact (emit_eq_next.1 he).2

/-- The encoder it leaves is made of the configuration registers, ENC.PIX and initial values (R91, R166). -/
theorem headerWritten_forgets {s s' : State} (hw : s'.enc.widthReg = s.enc.widthReg)
    (hh : s'.enc.heightReg = s.enc.heightReg) (hf : s'.enc.fmtReg = s.enc.fmtReg) (hp : s'.enc.pix = s.enc.pix) :
    (headerWritten s').enc = (headerWritten s).enc := by
  simp only [headerWritten, beginEncode, hw, hh, hf, hp]

/-- Settles O55: the decoder's checks are followed on both machines at once, and the encoder's START leaves
`headerWritten`. -/
theorem startForgetsThePast : Obligations.StartForgetsThePast := by
  intro s s' t t' hc
  refine ⟨fun hi hl start start' => ?_, fun hw hh hf hp start start' => ?_⟩
  · rw [serve_decoderStart] at start start'
    have alike := decoderStart_forgets (s := noAnswer s) (s' := noAnswer s') hi hl hc (decoderStart_inv start).1
      (decoderStart_inv start').1
    rw [start, start'] at alike
    exact alike.sameEnd
  · rw [encoderStart_leaves start, encoderStart_leaves start']
    exact headerWritten_forgets (s := noAnswer s) (s' := noAnswer s') hw hh hf hp

end Sys2Proof.Machine
end
